-- ==== Sys2Proof/Word.lean ====
section
/-! DEFINITION. The words, field values, bit sequences and points of PGFEC (spec/00_scope.md R9 to R11,
spec/30_encoding.md R61). -/

namespace Sys2Proof

/-- A 64-bit machine word: command word, payload word, `ACC` (R10: bit 63 most significant). -/
abbrev Word := BitVec 64

/-- An 8-bit character of a `BFROMSTR` payload (R64). -/
abbrev Byte := BitVec 8

/-- A 16-bit index lane of a `BMXOR` payload (R64). -/
abbrev Lane := BitVec 16

/-- A 6-bit register index field: `ra`, `rb`, or `c` used as `rc` (R61). -/
abbrev RegIx := BitVec 6

/-- A 6-bit scheme identifier field: `c` used as `sch` (R61). -/
abbrev SchemeId := BitVec 6

/-- A 12-bit number field: `x`, `y` or `n` (R61, R63). -/
abbrev Num12 := BitVec 12

/-- The content of a Bit-Block: bit 0 first, and bit 0 most significant as an integer (R9). -/
abbrev Bits := List Bool

/-- A point of the complex plane, in-phase and quadrature, each a signed fixed-point integer
(R11: the integer `c` stands for `c / 2^COORD_F`). -/
structure Point where
  I : Int
  Q : Int
  deriving DecidableEq, Repr

end Sys2Proof
end

