-- ==== Sys2Proof/Syntax.lean ====
section
/-! DEFINITION. The twenty-six commands of PGFEC, one constructor per row of spec/opcode_table.json
(spec/30_encoding.md R62, R64, R66). Operands are the decoded fields and the decoded payload; a scheme
identifier stays the raw 6-bit number, because it is checked only after the phase (R67 e). -/

namespace Sys2Proof

/-- The component that `PGET` selects: field `y` is 0 for I and 1 for Q (R199). -/
inductive Comp where
  | I
  | Q
  deriving DecidableEq, Repr

/-- A legal command of PGFEC. -/
inductive Instr where
  /-- `INIT` (R140). -/
  | init
  /-- `BCREATE Ba, n` (R103). -/
  | bcreate (ra : RegIx) (n : Num12)
  /-- `BDESTROY Ba` (R104). -/
  | bdestroy (ra : RegIx)
  /-- `BGET Ba[x]` (R105). -/
  | bget (ra : RegIx) (x : Num12)
  /-- `BSET Ba[x], v` (R106). -/
  | bset (ra : RegIx) (x : Num12) (v : Bool)
  /-- `BXORI Ba[x], v` (R107). -/
  | bxori (ra : RegIx) (x : Num12) (v : Bool)
  /-- `BCPBIT Ba[x], Bb[y]` (R108). -/
  | bcpbit (ra : RegIx) (x : Num12) (rb : RegIx) (y : Num12)
  /-- `BFLIP Ba[x]` (R109). -/
  | bflip (ra : RegIx) (x : Num12)
  /-- `BCMP Ba[x], Bb[y]` (R110). -/
  | bcmp (ra : RegIx) (x : Num12) (rb : RegIx) (y : Num12)
  /-- `BTOINT Ba` (R111). -/
  | btoint (ra : RegIx)
  /-- `BFROMINT Ba, value` (R112). -/
  | bfromint (ra : RegIx) (value : Word)
  /-- `BFROMSTR Ba, "chars"` (R113); field `n` is the number of characters. -/
  | bfromstr (ra : RegIx) (chars : List Byte)
  /-- `BDIVMOD Ba, Bb, Bc` (R114): remainder, dividend, divisor. -/
  | bdivmod (ra rb rc : RegIx)
  /-- `BXOR Ba, Bb` (R115): target, pattern. -/
  | bxor (ra rb : RegIx)
  /-- `BMXOR Ba, {idxs}` (R116); field `n` is the number of indices. -/
  | bmxor (ra : RegIx) (idxs : List Lane)
  /-- `BCOPY Ba[x], Bb[y], n` (R117). -/
  | bcopy (ra : RegIx) (x : Num12) (rb : RegIx) (y n : Num12)
  /-- `BRECHUNK Ba, Bb:x, n` (R118). -/
  | brechunk (ra rb : RegIx) (x n : Num12)
  /-- `FENC Ba, Bb:x, sch` (R150). -/
  | fenc (ra rb : RegIx) (sch : SchemeId) (x : Num12)
  /-- `FDEC Ba, Bb:x, sch` (R152). -/
  | fdec (ra rb : RegIx) (sch : SchemeId) (x : Num12)
  /-- `FSYNRD Ba, sch, x` (R154). -/
  | fsynrd (ra : RegIx) (sch : SchemeId) (x : Num12)
  /-- `FGENRD Ba, sch` (R155). -/
  | fgenrd (ra : RegIx) (sch : SchemeId)
  /-- `MMOD Pa, Bb:x, sch` (R194). -/
  | mmod (ra rb : RegIx) (sch : SchemeId) (x : Num12)
  /-- `MDEM Ba, Pb:x, sch` (R196). -/
  | mdem (ra rb : RegIx) (sch : SchemeId) (x : Num12)
  /-- `PSET Pa, I, Q` (R198): the two payload words as presented. -/
  | pset (ra : RegIx) (i q : Word)
  /-- `PGET Pa.I` or `PGET Pa.Q` (R199). -/
  | pget (ra : RegIx) (y : Comp)
  /-- `MTABRD Pa, sch, x` (R200). -/
  | mtabrd (ra : RegIx) (sch : SchemeId) (x : Num12)
  deriving DecidableEq, Repr

end Sys2Proof
end

