-- ==== Sys2Proof/WellFormed.lean ====
section
/-! DEFINITION. Which terms of `Instr` are commands: the payload lists must have a length that the
12-bit field `n` can express (spec/30_encoding.md R61, R64). Every other operand is a field of its exact
width, so nothing else can be ill-formed. -/

namespace Sys2Proof

/-- Field `n` is 12 bits wide, so a string or an index list has at most 4095 elements (R63). -/
def maxField : Nat := 4095

/-- The command has an encoding. -/
def Instr.wf : Instr → Bool
  | .init => true
  | .bcreate _ _ => true
  | .bdestroy _ => true
  | .bget _ _ => true
  | .bset _ _ _ => true
  | .bxori _ _ _ => true
  | .bcpbit _ _ _ _ => true
  | .bflip _ _ => true
  | .bcmp _ _ _ _ => true
  | .btoint _ => true
  | .bfromint _ _ => true
  | .bfromstr _ chars => chars.length ≤ maxField
  | .bdivmod _ _ _ => true
  | .bxor _ _ => true
  | .bmxor _ idxs => idxs.length ≤ maxField
  | .bcopy _ _ _ _ _ => true
  | .brechunk _ _ _ _ => true
  | .fenc _ _ _ _ => true
  | .fdec _ _ _ _ => true
  | .fsynrd _ _ _ => true
  | .fgenrd _ _ => true
  | .mmod _ _ _ _ => true
  | .mdem _ _ _ _ => true
  | .pset _ _ _ => true
  | .pget _ _ => true
  | .mtabrd _ _ _ => true

end Sys2Proof
end

