-- ==== Sys2Proof/Decode.lean ====
section
/-! DEFINITION. Command words: fields, lengths, the decoder (total, rejecting by name) and after it the
encoder, both written from spec/30_encoding.md R60 to R78. -/

namespace Sys2Proof

/-! ## Fields of the command word (R61) -/

/-- `op = W[63:56]`. -/
def fieldOp (w : Word) : BitVec 8 := w.extractLsb' 56 8
/-- `ra = W[55:50]`. -/
def fieldRa (w : Word) : RegIx := w.extractLsb' 50 6
/-- `rb = W[49:44]`. -/
def fieldRb (w : Word) : RegIx := w.extractLsb' 44 6
/-- `c = W[43:38]`. -/
def fieldC (w : Word) : BitVec 6 := w.extractLsb' 38 6
/-- `z = W[37:36]`. -/
def fieldZ (w : Word) : BitVec 2 := w.extractLsb' 36 2
/-- `x = W[35:24]`. -/
def fieldX (w : Word) : Num12 := w.extractLsb' 24 12
/-- `y = W[23:12]`. -/
def fieldY (w : Word) : Num12 := w.extractLsb' 12 12
/-- `n = W[11:0]`. -/
def fieldN (w : Word) : Num12 := w.extractLsb' 0 12

/-! ## Opcodes and formats (R62, R66) -/

/-- The twenty-six assigned opcodes (R66). -/
inductive Opcode where
  | INIT | BCREATE | BDESTROY | BGET | BSET | BXORI | BCPBIT | BFLIP | BCMP | BTOINT | BFROMINT
  | BFROMSTR | BDIVMOD | BXOR | BMXOR | BCOPY | BRECHUNK | FENC | FDEC | FSYNRD | FGENRD
  | MMOD | MDEM | PSET | PGET | MTABRD
  deriving DecidableEq, Repr

/-- The opcode byte of each command (R66). -/
def Opcode.byte : Opcode → BitVec 8
  | .INIT => 0x01
  | .BCREATE => 0x10
  | .BDESTROY => 0x11
  | .BGET => 0x12
  | .BSET => 0x13
  | .BXORI => 0x14
  | .BCPBIT => 0x15
  | .BFLIP => 0x16
  | .BCMP => 0x17
  | .BTOINT => 0x18
  | .BFROMINT => 0x19
  | .BFROMSTR => 0x1A
  | .BDIVMOD => 0x1B
  | .BXOR => 0x1C
  | .BMXOR => 0x1D
  | .BCOPY => 0x1E
  | .BRECHUNK => 0x1F
  | .FENC => 0x20
  | .FDEC => 0x21
  | .FSYNRD => 0x22
  | .FGENRD => 0x23
  | .MMOD => 0x30
  | .MDEM => 0x31
  | .PSET => 0x32
  | .PGET => 0x33
  | .MTABRD => 0x34

/-- The command an opcode byte stands for; every other byte is unassigned (R66, R67 a). -/
def Opcode.ofByte (b : BitVec 8) : Option Opcode :=
  match b.toNat with
  | 0x01 => some .INIT
  | 0x10 => some .BCREATE
  | 0x11 => some .BDESTROY
  | 0x12 => some .BGET
  | 0x13 => some .BSET
  | 0x14 => some .BXORI
  | 0x15 => some .BCPBIT
  | 0x16 => some .BFLIP
  | 0x17 => some .BCMP
  | 0x18 => some .BTOINT
  | 0x19 => some .BFROMINT
  | 0x1A => some .BFROMSTR
  | 0x1B => some .BDIVMOD
  | 0x1C => some .BXOR
  | 0x1D => some .BMXOR
  | 0x1E => some .BCOPY
  | 0x1F => some .BRECHUNK
  | 0x20 => some .FENC
  | 0x21 => some .FDEC
  | 0x22 => some .FSYNRD
  | 0x23 => some .FGENRD
  | 0x30 => some .MMOD
  | 0x31 => some .MDEM
  | 0x32 => some .PSET
  | 0x33 => some .PGET
  | 0x34 => some .MTABRD
  | _ => none

/-- The fields a command uses (R62); `true` marks a used field. -/
structure FieldUse where
  ra : Bool := false
  rb : Bool := false
  c : Bool := false
  x : Bool := false
  y : Bool := false
  n : Bool := false
  deriving DecidableEq, Repr

/-- The "fields used" column of R62, by command. -/
def Opcode.uses : Opcode → FieldUse
  | .INIT => {}
  | .BDESTROY => { ra := true }
  | .BTOINT => { ra := true }
  | .BFROMINT => { ra := true }
  | .PSET => { ra := true }
  | .BCREATE => { ra := true, n := true }
  | .BFROMSTR => { ra := true, n := true }
  | .BMXOR => { ra := true, n := true }
  | .BGET => { ra := true, x := true }
  | .BFLIP => { ra := true, x := true }
  | .BSET => { ra := true, x := true, y := true }
  | .BXORI => { ra := true, x := true, y := true }
  | .PGET => { ra := true, y := true }
  | .BCPBIT => { ra := true, x := true, rb := true, y := true }
  | .BCMP => { ra := true, x := true, rb := true, y := true }
  | .BXOR => { ra := true, rb := true }
  | .BDIVMOD => { ra := true, rb := true, c := true }
  | .BCOPY => { ra := true, x := true, rb := true, y := true, n := true }
  | .BRECHUNK => { ra := true, rb := true, x := true, n := true }
  | .FENC => { ra := true, rb := true, c := true, x := true }
  | .FDEC => { ra := true, rb := true, c := true, x := true }
  | .MMOD => { ra := true, rb := true, c := true, x := true }
  | .MDEM => { ra := true, rb := true, c := true, x := true }
  | .FSYNRD => { ra := true, c := true, x := true }
  | .MTABRD => { ra := true, c := true, x := true }
  | .FGENRD => { ra := true, c := true }

/-- Every field that the command does not use is 0 (R67 c). -/
def unusedZero (u : FieldUse) (w : Word) : Bool :=
  (u.ra || fieldRa w == 0) && (u.rb || fieldRb w == 0) && (u.c || fieldC w == 0) &&
  (u.x || fieldX w == 0) && (u.y || fieldY w == 0) && (u.n || fieldN w == 0)

/-! ## Length and payload (R64, R65) -/

/-- The number of payload words, a function of the command word alone, taken before any check (R65). -/
def payloadWords (w : Word) : Nat :=
  match (fieldOp w).toNat with
  | 0x19 => 1
  | 0x1A => ((fieldN w).toNat + 7) / 8
  | 0x1D => ((fieldN w).toNat + 3) / 4
  | 0x32 => 2
  | _ => 0

/-- The eight characters of a payload word, most significant byte first (R64). -/
def bytesOfWord (w : Word) : List Byte :=
  [w.extractLsb' 56 8, w.extractLsb' 48 8, w.extractLsb' 40 8, w.extractLsb' 32 8,
   w.extractLsb' 24 8, w.extractLsb' 16 8, w.extractLsb' 8 8, w.extractLsb' 0 8]

/-- The four indices of a payload word, most significant lane first (R64). -/
def lanesOfWord (w : Word) : List Lane :=
  [w.extractLsb' 48 16, w.extractLsb' 32 16, w.extractLsb' 16 16, w.extractLsb' 0 16]

/-! ## The decoder -/

/-- Why a command word is illegal (R67 a to d). -/
inductive Illegal where
  /-- R67 a: `op` is not one of the twenty-six values. -/
  | unassignedOpcode
  /-- R67 b: `z` is not 0. -/
  | reservedZ
  /-- R67 c: a field that the command does not use is not 0. -/
  | unusedField
  /-- R67 d: `y > 1` in `BSET`, `BXORI` or `PGET`. -/
  | yAboveOne
  deriving DecidableEq, Repr

/-- Field `y` as a bit value, for `BSET`, `BXORI` and `PGET` (R67 d). -/
def yBit (w : Word) : Except Illegal Bool :=
  match (fieldY w).toNat with
  | 0 => .ok false
  | 1 => .ok true
  | _ => .error .yAboveOne

/-- The component that field `y` of `PGET` selects (R199). -/
def compOf (v : Bool) : Comp := if v then .Q else .I

/-- The command that an opcode, its fields and its payload words spell, its unused fields being 0 (R62, R64). -/
def operands (o : Opcode) (w : Word) (payload : List Word) : Except Illegal Instr :=
  match o with
  | .INIT => .ok .init
  | .BCREATE => .ok (.bcreate (fieldRa w) (fieldN w))
  | .BDESTROY => .ok (.bdestroy (fieldRa w))
  | .BGET => .ok (.bget (fieldRa w) (fieldX w))
  | .BSET => (yBit w).map fun v => .bset (fieldRa w) (fieldX w) v
  | .BXORI => (yBit w).map fun v => .bxori (fieldRa w) (fieldX w) v
  | .BCPBIT => .ok (.bcpbit (fieldRa w) (fieldX w) (fieldRb w) (fieldY w))
  | .BFLIP => .ok (.bflip (fieldRa w) (fieldX w))
  | .BCMP => .ok (.bcmp (fieldRa w) (fieldX w) (fieldRb w) (fieldY w))
  | .BTOINT => .ok (.btoint (fieldRa w))
  | .BFROMINT => .ok (.bfromint (fieldRa w) (payload.getD 0 0))
  | .BFROMSTR => .ok (.bfromstr (fieldRa w) ((payload.flatMap bytesOfWord).take (fieldN w).toNat))
  | .BDIVMOD => .ok (.bdivmod (fieldRa w) (fieldRb w) (fieldC w))
  | .BXOR => .ok (.bxor (fieldRa w) (fieldRb w))
  | .BMXOR => .ok (.bmxor (fieldRa w) ((payload.flatMap lanesOfWord).take (fieldN w).toNat))
  | .BCOPY => .ok (.bcopy (fieldRa w) (fieldX w) (fieldRb w) (fieldY w) (fieldN w))
  | .BRECHUNK => .ok (.brechunk (fieldRa w) (fieldRb w) (fieldX w) (fieldN w))
  | .FENC => .ok (.fenc (fieldRa w) (fieldRb w) (fieldC w) (fieldX w))
  | .FDEC => .ok (.fdec (fieldRa w) (fieldRb w) (fieldC w) (fieldX w))
  | .FSYNRD => .ok (.fsynrd (fieldRa w) (fieldC w) (fieldX w))
  | .FGENRD => .ok (.fgenrd (fieldRa w) (fieldC w))
  | .MMOD => .ok (.mmod (fieldRa w) (fieldRb w) (fieldC w) (fieldX w))
  | .MDEM => .ok (.mdem (fieldRa w) (fieldRb w) (fieldC w) (fieldX w))
  | .PSET => .ok (.pset (fieldRa w) (payload.getD 0 0) (payload.getD 1 0))
  | .PGET => (yBit w).map fun v => .pget (fieldRa w) (compOf v)
  | .MTABRD => .ok (.mtabrd (fieldRa w) (fieldC w) (fieldX w))

/-- Decode one command word with its payload words; an illegal word is rejected by name (R67 a to d). -/
def decodeCommand (w : Word) (payload : List Word) : Except Illegal Instr :=
  match Opcode.ofByte (fieldOp w) with
  | none => .error .unassignedOpcode
  | some o =>
    if fieldZ w = 0 then
      if unusedZero o.uses w then operands o w payload else .error .unusedField
    else .error .reservedZ

/-- What a stream of words holds at its head (R258): nothing, a command whose payload is not complete, or
a complete command with the words after it. -/
inductive Fetched where
  | idle
  | incomplete
  | command (w : Word) (payload rest : List Word)
  deriving DecidableEq, Repr

/-- Cut the first command from a stream of words by the length rule (R60, R65, R258). -/
def fetch : List Word → Fetched
  | [] => .idle
  | w :: ws =>
    if ws.length < payloadWords w then .incomplete
    else .command w (ws.take (payloadWords w)) (ws.drop (payloadWords w))

/-- Why a stream of words gives no command. -/
inductive DecodeError where
  /-- No word is there. -/
  | noWord
  /-- A payload word is still missing. -/
  | payloadMissing
  /-- The command is complete and its word illegal. -/
  | illegal (reason : Illegal)
  deriving DecidableEq, Repr

/-- Decode the first command of any stream of words; answer the command and the words after it. -/
def decode (ws : List Word) : Except DecodeError (Instr × List Word) :=
  match fetch ws with
  | .idle => .error .noWord
  | .incomplete => .error .payloadMissing
  | .command w payload rest =>
    match decodeCommand w payload with
    | .ok i => .ok (i, rest)
    | .error r => .error (.illegal r)

/-! ## The encoder (R62, R64, R78) -/

/-- The fields of a command word, unused fields 0 (R61, R78). -/
structure Fields where
  ra : RegIx := 0
  rb : RegIx := 0
  c : BitVec 6 := 0
  x : Num12 := 0
  y : Num12 := 0
  n : Num12 := 0
  deriving DecidableEq, Repr

/-- `op<<56 | ra<<50 | rb<<44 | c<<38 | x<<24 | y<<12 | n` (R78), written as the sum that it is, the fields
lying side by side. -/
def packWord (op : BitVec 8) (f : Fields) : Word :=
  BitVec.ofNat 64 (op.toNat * 2 ^ 56 + f.ra.toNat * 2 ^ 50 + f.rb.toNat * 2 ^ 44 + f.c.toNat * 2 ^ 38
    + f.x.toNat * 2 ^ 24 + f.y.toNat * 2 ^ 12 + f.n.toNat)

/-- The opcode of a command (R66). -/
def Instr.opcode : Instr → Opcode
  | .init => .INIT
  | .bcreate _ _ => .BCREATE
  | .bdestroy _ => .BDESTROY
  | .bget _ _ => .BGET
  | .bset _ _ _ => .BSET
  | .bxori _ _ _ => .BXORI
  | .bcpbit _ _ _ _ => .BCPBIT
  | .bflip _ _ => .BFLIP
  | .bcmp _ _ _ _ => .BCMP
  | .btoint _ => .BTOINT
  | .bfromint _ _ => .BFROMINT
  | .bfromstr _ _ => .BFROMSTR
  | .bdivmod _ _ _ => .BDIVMOD
  | .bxor _ _ => .BXOR
  | .bmxor _ _ => .BMXOR
  | .bcopy _ _ _ _ _ => .BCOPY
  | .brechunk _ _ _ _ => .BRECHUNK
  | .fenc _ _ _ _ => .FENC
  | .fdec _ _ _ _ => .FDEC
  | .fsynrd _ _ _ => .FSYNRD
  | .fgenrd _ _ => .FGENRD
  | .mmod _ _ _ _ => .MMOD
  | .mdem _ _ _ _ => .MDEM
  | .pset _ _ _ => .PSET
  | .pget _ _ => .PGET
  | .mtabrd _ _ _ => .MTABRD

/-- A bit value as field `y` (R62, format FAXV). -/
def bitField (v : Bool) : Num12 := if v then 1 else 0

/-- A component select as field `y` (R199). -/
def compField : Comp → Num12
  | .I => 0
  | .Q => 1

/-- The fields of a command (R62, R77). -/
def Instr.fields : Instr → Fields
  | .init => {}
  | .bcreate ra n => { ra := ra, n := n }
  | .bdestroy ra => { ra := ra }
  | .bget ra x => { ra := ra, x := x }
  | .bset ra x v => { ra := ra, x := x, y := bitField v }
  | .bxori ra x v => { ra := ra, x := x, y := bitField v }
  | .bcpbit ra x rb y => { ra := ra, x := x, rb := rb, y := y }
  | .bflip ra x => { ra := ra, x := x }
  | .bcmp ra x rb y => { ra := ra, x := x, rb := rb, y := y }
  | .btoint ra => { ra := ra }
  | .bfromint ra _ => { ra := ra }
  | .bfromstr ra chars => { ra := ra, n := BitVec.ofNat 12 chars.length }
  | .bdivmod ra rb rc => { ra := ra, rb := rb, c := rc }
  | .bxor ra rb => { ra := ra, rb := rb }
  | .bmxor ra idxs => { ra := ra, n := BitVec.ofNat 12 idxs.length }
  | .bcopy ra x rb y n => { ra := ra, x := x, rb := rb, y := y, n := n }
  | .brechunk ra rb x n => { ra := ra, rb := rb, x := x, n := n }
  | .fenc ra rb sch x => { ra := ra, rb := rb, c := sch, x := x }
  | .fdec ra rb sch x => { ra := ra, rb := rb, c := sch, x := x }
  | .fsynrd ra sch x => { ra := ra, c := sch, x := x }
  | .fgenrd ra sch => { ra := ra, c := sch }
  | .mmod ra rb sch x => { ra := ra, rb := rb, c := sch, x := x }
  | .mdem ra rb sch x => { ra := ra, rb := rb, c := sch, x := x }
  | .pset ra _ _ => { ra := ra }
  | .pget ra y => { ra := ra, y := compField y }
  | .mtabrd ra sch x => { ra := ra, c := sch, x := x }

/-- The command word of a command: what `FCMD` records when it raises a fatal error (R78, R28). -/
def Instr.word (i : Instr) : Word := packWord i.opcode.byte i.fields

/-- The word whose bytes are the first eight of a list, most significant first, absent ones 0 (R64). -/
def wordOfBytes (l : List Byte) : Word :=
  BitVec.ofNat 64 ((l.getD 0 0).toNat * 2 ^ 56 + (l.getD 1 0).toNat * 2 ^ 48 + (l.getD 2 0).toNat * 2 ^ 40
    + (l.getD 3 0).toNat * 2 ^ 32 + (l.getD 4 0).toNat * 2 ^ 24 + (l.getD 5 0).toNat * 2 ^ 16
    + (l.getD 6 0).toNat * 2 ^ 8 + (l.getD 7 0).toNat)

/-- The word whose lanes are the first four of a list, most significant first, absent ones 0 (R64). -/
def wordOfLanes (l : List Lane) : Word :=
  BitVec.ofNat 64 ((l.getD 0 0).toNat * 2 ^ 48 + (l.getD 1 0).toNat * 2 ^ 32 + (l.getD 2 0).toNat * 2 ^ 16
    + (l.getD 3 0).toNat)

/-- `k` payload words of characters, eight per word (R64). -/
def packBytes : Nat → List Byte → List Word
  | 0, _ => []
  | k + 1, l => wordOfBytes l :: packBytes k (l.drop 8)

/-- `k` payload words of indices, four per word (R64). -/
def packLanes : Nat → List Lane → List Word
  | 0, _ => []
  | k + 1, l => wordOfLanes l :: packLanes k (l.drop 4)

/-- The payload words of a command (R64), bits without content 0. -/
def Instr.payload : Instr → List Word
  | .bfromint _ value => [value]
  | .bfromstr _ chars => packBytes ((chars.length + 7) / 8) chars
  | .bmxor _ idxs => packLanes ((idxs.length + 3) / 4) idxs
  | .pset _ i q => [i, q]
  | .init => []
  | .bcreate _ _ => []
  | .bdestroy _ => []
  | .bget _ _ => []
  | .bset _ _ _ => []
  | .bxori _ _ _ => []
  | .bcpbit _ _ _ _ => []
  | .bflip _ _ => []
  | .bcmp _ _ _ _ => []
  | .btoint _ => []
  | .bdivmod _ _ _ => []
  | .bxor _ _ => []
  | .bcopy _ _ _ _ _ => []
  | .brechunk _ _ _ _ => []
  | .fenc _ _ _ _ => []
  | .fdec _ _ _ _ => []
  | .fsynrd _ _ _ => []
  | .fgenrd _ _ => []
  | .mmod _ _ _ _ => []
  | .mdem _ _ _ _ => []
  | .pget _ _ => []
  | .mtabrd _ _ _ => []

/-- The words of a command as the host presents them (R60). -/
def encode (i : Instr) : List Word := i.word :: i.payload

/-! ## Words numbered as spec/opcode_table.json numbers them -/

/-- The words of the instruction whose bits are the low `nbits` bits of `w`, first word lowest, every bit
above `nbits` 0; as many payload words as the length rule gives. -/
def tableWords (nbits w : Nat) : List Word :=
  let v := w % 2 ^ nbits
  let first : Word := BitVec.ofNat 64 v
  first :: (List.range (payloadWords first)).map fun j => BitVec.ofNat 64 (v >>> (64 * (j + 1)))

/-- The instruction that the decoder reads from a word of the opcode table. -/
def decodeTableWord (nbits w : Nat) : Option Instr :=
  match decode (tableWords nbits w) with
  | .ok (i, _) => some i
  | .error _ => none

end Sys2Proof
end

