-- ==== Sys2Proof/Machine/Schemes.lean ====
section
/-! DEFINITION. The two closed enumerations of schemes with their sizes (spec/30_encoding.md R75, R76; the
QAM bounds are spec/42_modem.md R188), and the shapes of what the tables hold (spec/10_state.md R32). -/

namespace Sys2Proof

/-- The three CRC-style schemes, decoded through a syndrome table (R75). -/
inductive CrcScheme where
  | cyclic85
  | bch155
  | bch157
  deriving DecidableEq, Repr

/-- One value for each CRC-style scheme (R31, R32). -/
structure PerCrc (α : Type) where
  cyclic85 : α
  bch155 : α
  bch157 : α
  deriving DecidableEq, Repr

/-- The value of one scheme. -/
def PerCrc.get {α : Type} (t : PerCrc α) : CrcScheme → α
  | .cyclic85 => t.cyclic85
  | .bch155 => t.bch155
  | .bch157 => t.bch157

/-- Input bits `k` (R75). -/
def CrcScheme.dataBits : CrcScheme → Nat
  | .cyclic85 => 5
  | .bch155 => 5
  | .bch157 => 7

/-- Parity bits `r = n - k` (R75). -/
def CrcScheme.parityBits : CrcScheme → Nat
  | .cyclic85 => 3
  | .bch155 => 10
  | .bch157 => 8

/-- Output bits `n` (R75). -/
def CrcScheme.codeBits : CrcScheme → Nat
  | .cyclic85 => 8
  | .bch155 => 15
  | .bch157 => 15

/-- The five FEC schemes (R75). -/
inductive FecScheme where
  /-- `NONE`: identity copy. -/
  | noCode
  | hamming74
  | crc (s : CrcScheme)
  deriving DecidableEq, Repr

/-- FEC scheme identifiers; 5 to 63 are invalid (R75). -/
def FecScheme.ofId (sch : SchemeId) : Option FecScheme :=
  match sch.toNat with
  | 0 => some .noCode
  | 1 => some .hamming74
  | 2 => some (.crc .cyclic85)
  | 3 => some (.crc .bch155)
  | 4 => some (.crc .bch157)
  | _ => none

/-- Identifiers of the schemes that have a syndrome table and a generator: 2, 3 and 4 (R67 e, R154, R155). -/
def CrcScheme.ofId (sch : SchemeId) : Option CrcScheme :=
  match sch.toNat with
  | 2 => some .cyclic85
  | 3 => some .bch155
  | 4 => some .bch157
  | _ => none

/-- The exact source length that `FENC` requires, none for NONE (R150). -/
def FecScheme.encodeSize : FecScheme → Option Nat
  | .noCode => none
  | .hamming74 => some 4
  | .crc s => some s.dataBits

/-- The exact source length that `FDEC` requires, none for NONE (R152). -/
def FecScheme.decodeSize : FecScheme → Option Nat
  | .noCode => none
  | .hamming74 => some 7
  | .crc s => some s.codeBits

/-- The seventeen modulation schemes (R76). -/
inductive ModScheme where
  | ask | fsk | bpsk | qpsk | psk8 | psk16 | psk32 | psk64 | psk256 | psk1024 | psk4096
  | qam16 | qam32 | qam64 | qam256 | qam1024 | qam4096
  deriving DecidableEq, Repr

/-- The scheme an identifier names; 17 to 63 are invalid (R76). -/
def ModScheme.ofId (sch : SchemeId) : Option ModScheme :=
  match sch.toNat with
  | 0 => some .ask
  | 1 => some .fsk
  | 2 => some .bpsk
  | 3 => some .qpsk
  | 4 => some .psk8
  | 5 => some .psk16
  | 6 => some .psk32
  | 7 => some .psk64
  | 8 => some .psk256
  | 9 => some .psk1024
  | 10 => some .psk4096
  | 11 => some .qam16
  | 12 => some .qam32
  | 13 => some .qam64
  | 14 => some .qam256
  | 15 => some .qam1024
  | 16 => some .qam4096
  | _ => none

/-- The identifier of a scheme (R76), the index of its table. -/
def ModScheme.id : ModScheme → Fin 17
  | .ask => 0
  | .fsk => 1
  | .bpsk => 2
  | .qpsk => 3
  | .psk8 => 4
  | .psk16 => 5
  | .psk32 => 6
  | .psk64 => 7
  | .psk256 => 8
  | .psk1024 => 9
  | .psk4096 => 10
  | .qam16 => 11
  | .qam32 => 12
  | .qam64 => 13
  | .qam256 => 14
  | .qam1024 => 15
  | .qam4096 => 16

/-- Symbol bit-width (R76). -/
def ModScheme.bits : ModScheme → Nat
  | .ask => 1
  | .fsk => 1
  | .bpsk => 1
  | .qpsk => 2
  | .psk8 => 3
  | .psk16 => 4
  | .psk32 => 5
  | .psk64 => 6
  | .psk256 => 8
  | .psk1024 => 10
  | .psk4096 => 12
  | .qam16 => 4
  | .qam32 => 5
  | .qam64 => 6
  | .qam256 => 8
  | .qam1024 => 10
  | .qam4096 => 12

/-- Constellation size `2^bits` (R76). -/
def ModScheme.volume (m : ModScheme) : Nat := 2 ^ m.bits

/-- How a scheme's table is built: from given points (PSK family, R184) or on a grid (QAM, R189). -/
inductive Shape where
  /-- The scheme's place among the eleven PSK-family schemes, and whether it is Gray-coded. -/
  | psk (ix : Fin 11) (gray : Bool)
  /-- The scheme's place among the six QAM schemes, its bound (R188), and whether the corners are skipped. -/
  | qam (ix : Fin 6) (bound : Nat) (cross : Bool)
  deriving DecidableEq, Repr

/-- Family, Gray column and bound of each scheme (R76, R188). -/
def ModScheme.shape : ModScheme → Shape
  | .ask => .psk 0 false
  | .fsk => .psk 1 false
  | .bpsk => .psk 2 true
  | .qpsk => .psk 3 true
  | .psk8 => .psk 4 true
  | .psk16 => .psk 5 true
  | .psk32 => .psk 6 true
  | .psk64 => .psk 7 true
  | .psk256 => .psk 8 true
  | .psk1024 => .psk 9 true
  | .psk4096 => .psk 10 true
  | .qam16 => .qam 0 3 false
  | .qam32 => .qam 1 5 true
  | .qam64 => .qam 2 7 false
  | .qam256 => .qam 3 15 false
  | .qam1024 => .qam 4 31 false
  | .qam4096 => .qam 5 63 false

/-- One entry of a syndrome table: the presence ("marked") flag and the correction pattern (R22, R32). -/
structure SynEntry where
  present : Bool
  pat : Bits
  deriving DecidableEq, Repr

end Sys2Proof
end

