-- ==== Sys2Proof/Config.lean ====
section
/-! DEFINITION. The fixed sizes and the configuration record of spec/00_scope.md R7: what one machine fixes
and a model takes as arguments. Their legality is Machine/ConfigCheck.lean, their defaults
Machine/Defaults.lean. -/

namespace Sys2Proof

/-- Number of block registers (R7, fixed). -/
def NB : Nat := 64
/-- Number of point registers (R7, fixed). -/
def NP : Nat := 64
/-- Largest bit count of a block register (R7, fixed). -/
def MAXLEN : Nat := 4095

/-- Three index subsets of the Hamming code, for parity or syndrome bits 0, 1 and 2 (R145). -/
structure HamSets where
  s0 : List Nat
  s1 : List Nat
  s2 : List Nat
  deriving DecidableEq, Repr

/-- The OPEN parameters of R7. `T[BCH155]` and `T[BCH157]` are fixed by the source (R8) and stand in
`Machine.radius`; the thresholds of the QAM schemes are their normalisation constants (R191). -/
structure Config where
  /-- `COORD_W`: total bits of a coordinate. -/
  coordW : Nat
  /-- `COORD_F`: fraction bits of a coordinate. -/
  coordF : Nat
  /-- `GEN[s]`: generator polynomials, bit 0 the highest-degree coefficient. -/
  gen : PerCrc Bits
  /-- `T[CYCLIC85]`. -/
  tCyclic85 : Nat
  /-- `HAM_ENC`: index sets into the 4 data bits. -/
  hamEnc : HamSets
  /-- `HAM_SYN`: index sets into the 7 received bits. -/
  hamSyn : HamSets
  /-- `PSKPT[m][i]` for the eleven PSK-family schemes, by identifier. -/
  pskPt : Vector (List Point) 11
  /-- `THRQ[m]` for the eleven PSK-family schemes, by identifier. -/
  thrQ : Vector Int 11
  /-- `NORMQ[m]` for the six QAM schemes, QAM16 first. -/
  normQ : Vector Int 6
  deriving DecidableEq, Repr

end Sys2Proof
end

