-- ==== Sys2Proof/Machine/BitFuns.lean ====
section
/-! DEFINITION. The pure functions on bit sequences: integers, GF(2) arithmetic and re-chunking
(spec/40_bitblock.md R100 to R102, R116, R119; spec/00_scope.md R11). -/

namespace Sys2Proof.Machine

/-- `to_integer(s)`: bit 0 is most significant (R100). -/
def toInteger (s : Bits) : Nat := s.foldl (fun a b => 2 * a + b.toNat) 0

/-- `from_integer(L, v)`: bit `i` is bit `L-1-i` of `v` (R101). -/
def fromInteger : Nat → Nat → Bits
  | 0, _ => []
  | k + 1, v => v.testBit k :: fromInteger k v

/-- `zeros(n)` (R12). -/
def zeros (n : Nat) : Bits := List.replicate n false

/-- Bit `i` of a sequence; the callers have checked `i < len` (R12 `BitRead`). -/
def bitAt (x : Bits) (i : Nat) : Bool := x.getD i false

/-- The sequence with bit `i` replaced (R12 `BitWrite`). -/
def withBit (x : Bits) (i : Nat) (v : Bool) : Bits := x.set i v

/-- Element-wise XOR of two sequences of one length (R115, R120). -/
def xorBits (a b : Bits) : Bits := List.zipWith (fun x y => x ^^ y) a b

/-- XOR of the bits at a list of positions; a position that occurs twice cancels (R116, R147 a). -/
def xorAt (x : Bits) (positions : List Nat) : Bool :=
  positions.foldl (fun acc p => acc ^^ bitAt x p) false

/-- XOR `g` into the leading bits of `w`; bits of `w` past `g` stay. -/
def xorPrefix : Bits → Bits → Bits
  | w, [] => w
  | [], _ => []
  | b :: w, g :: gs => (b ^^ g) :: xorPrefix w gs

/-- `k` steps of the long division of R102. The bit a step visits is never read again, so each step drops it;
when it is 1 the rest of the divisor is XOR-ed into the bits that follow it. -/
def gf2Steps (g : Bits) : Nat → Bits → Bits
  | 0, w => w
  | _ + 1, [] => []
  | k + 1, b :: w => gf2Steps g k (if b then xorPrefix w g.tail else w)

/-- `gf2_rem(d, g)`: `N - M + 1` steps (none when `N < M`), and the `M - 1` bits that are left (R102). -/
def gf2Rem (d g : Bits) : Bits := gf2Steps g (d.length + 1 - g.length) d

/-- `ceil(a/b)` (R11). -/
def ceilDiv (a b : Nat) : Nat := (a + b - 1) / b

/-- The first `n` bits of a sequence, with zeros for the bits it has not. -/
def takePad (n : Nat) (s : Bits) : Bits := s.take n ++ zeros (n - s.length)

/-- `k` consecutive slices of `target` bits, the last padded with zeros. -/
def slices (target : Nat) : Nat → Bits → List Bits
  | 0, _ => []
  | k + 1, s => takePad target s :: slices target k (s.drop target)

/-- `rechunk(blocks, target)` (R119): `ceil(total/target)` slices of the concatenated stream. -/
def rechunk (blocks : List Bits) (target : Nat) : List Bits :=
  let stream := blocks.flatten
  slices target (ceilDiv stream.length target) stream

/-- The character `'1'` (R113, ASCII). -/
def charOne : Byte := 0x31

/-- `from_binary_string` on a block of length `len`, for a string of at most `len` characters: a bit is 1 iff
it has a character and that is `'1'` (R113). -/
def fromString (len : Nat) (chars : List Byte) : Bits :=
  takePad len (chars.map (fun ch => ch == charOne))

/-- `copy` of `n` bits from offset `soff` of `src` to offset `doff` of `dst` (R117); other bits stay. -/
def copyRange (dst : Bits) (doff : Nat) (src : Bits) (soff n : Nat) : Bits :=
  dst.take doff ++ (src.drop soff).take n ++ dst.drop (doff + n)

end Sys2Proof.Machine
end

