-- ==== Sys2Proof/Machine/FecFuns.lean ====
section
/-! DEFINITION. The FEC codec as pure functions: Hamming and CRC-style encoding and decoding, and the
construction of the syndrome tables (spec/41_fec.md R144 to R152). -/

namespace Sys2Proof.Machine

/-! ## Tables as sequences of writes -/

/-- What a slot holds after a sequence of writes: the last one to it, none if there is none. -/
def lastWrite {α : Type} (writes : List (Nat × α)) (slot : Nat) : Option α :=
  (writes.reverse.find? (fun w => w.1 == slot)).map (fun w => w.2)

/-! ## Hamming(7,4) -/

/-- `fec_encode(HAMMING74, d)`: the data bits, then three parity bits (R147 a). -/
def hammingEncode (enc : HamSets) (d : Bits) : Bits :=
  d ++ [xorAt d enc.s0, xorAt d enc.s1, xorAt d enc.s2]

/-- `syn(w) = 4*s0 + 2*s1 + s2` (R146). -/
def hammingSyndrome (syn : HamSets) (w : Bits) : Nat :=
  4 * (xorAt w syn.s0).toNat + 2 * (xorAt w syn.s1).toNat + (xorAt w syn.s2).toNat

/-- `fec_decode(HAMMING74, w)`: syndrome 1 to 7 flips bit `syndrome - 1`; the first four bits are the data
(R151 a; the test `v ≤ 7` is the source's, `90` C3). -/
def hammingDecode (syn : HamSets) (w : Bits) : Bits :=
  let v := hammingSyndrome syn w
  let u := if v ≠ 0 ∧ v ≤ 7 then withBit w (v - 1) (!bitAt w (v - 1)) else w
  u.take 4

/-! ## CRC-style schemes -/

/-- `fec_encode` of a CRC-style scheme: the data, then the remainder of the data shifted left by the parity
width (R147 b). -/
def crcEncode (g : Bits) (r : Nat) (d : Bits) : Bits := d ++ gf2Rem (d ++ zeros r) g

/-- The syndrome: the remainder read as an integer (R148, R151 b). -/
def syndrome (g w : Bits) : Nat := toInteger (gf2Rem w g)

/-- The entry of a syndrome table; a slot past the table reads as absent. -/
def synLookup (len : Nat) (table : List SynEntry) (v : Nat) : SynEntry :=
  table.getD v { present := false, pat := zeros len }

/-- `fec_decode` of a CRC-style scheme with code length `len` and data length `k` (R151 b). -/
def crcDecode (g : Bits) (len k : Nat) (table : List SynEntry) (w : Bits) : Bits :=
  let v := syndrome g w
  let e := synLookup len table v
  let u := if v ≠ 0 ∧ e.present = true then xorBits w e.pat else w
  u.take k

/-! ## Syndrome tables -/

/-- Declared correction radius `T[s]`: 3 and 2 are the source's, that of Cyclic(8,5) is open (R144). -/
def radius (c : Config) : CrcScheme → Nat
  | .cyclic85 => c.tCyclic85
  | .bch155 => 3
  | .bch157 => 2

/-- All bit sequences of length `L` with at most `t` ones, in descending numeric order: the patterns that the
loop of R148 retains, and after them the zero pattern. -/
def patternsDown : Nat → Nat → List Bits
  | 0, _ => [[]]
  | L + 1, 0 => (patternsDown L 0).map (fun p => false :: p)
  | L + 1, t + 1 => (patternsDown L t).map (fun p => true :: p) ++ (patternsDown L (t + 1)).map (fun p => false :: p)

/-- The recordings of R148 in the order made: each retained pattern (`2^L - 1` down to 1) under the syndrome of
the all-zero test message corrupted by it. -/
def synWrites (len t : Nat) (g : Bits) : List (Nat × Bits) :=
  (patternsDown len t).dropLast.map fun pat => (syndrome g (xorBits (zeros len) pat), pat)

/-- The slot of a syndrome table after a sequence of recordings (R148). -/
def synSlot (len : Nat) (writes : List (Nat × Bits)) (v : Nat) : SynEntry :=
  match lastWrite writes v with
  | some pat => { present := true, pat := pat }
  | none => { present := false, pat := zeros len }

/-- `ST[s]` for code length `len`, parity width `r`, radius `t` and generator `g` (R148). -/
def buildSyn (len r t : Nat) (g : Bits) : List SynEntry :=
  let writes := synWrites len t g
  (List.range (2 ^ r)).map fun v => synSlot len writes v

/-- The syndrome table of one scheme under a configuration (R141, R148). -/
def synTable (c : Config) (s : CrcScheme) : List SynEntry :=
  buildSyn s.codeBits s.parityBits (radius c s) (c.gen.get s)

/-! ## The five schemes -/

/-- `fec_encode(s, d)` (R147), with the generator registers as they stand. -/
def fecEncode (enc : HamSets) (genr : PerCrc Bits) (f : FecScheme) (d : Bits) : Bits :=
  match f with
  | .noCode => d
  | .hamming74 => hammingEncode enc d
  | .crc s => crcEncode (genr.get s) s.parityBits d

/-- `fec_decode(s, w)` (R151), with the generator registers and syndrome tables as they stand. -/
def fecDecode (syn : HamSets) (genr : PerCrc Bits) (st : PerCrc (List SynEntry)) (f : FecScheme) (w : Bits) : Bits :=
  match f with
  | .noCode => w
  | .hamming74 => hammingDecode syn w
  | .crc s => crcDecode (genr.get s) s.codeBits s.dataBits (st.get s) w

end Sys2Proof.Machine
end

