-- ==== Sys2Proof/Machine/ModemFuns.lean ====
section
/-! DEFINITION. Gray code, constellation tables, squared distance and the nearest-point search as pure
functions (spec/42_modem.md R180 to R196). All arithmetic is exact integer arithmetic (R180). -/

namespace Sys2Proof.Machine

/-- `gray(i) = i ^ (i >> 1)` (R183). -/
def gray (i : Nat) : Nat := i ^^^ (i >>> 1)

/-- The point that stands for an absent table entry; no command reads one after `INIT`. -/
def origin : Point := { I := 0, Q := 0 }

/-- A table of `volume` entries after a sequence of writes (R184, R189). -/
def tableOf (volume : Nat) (writes : List (Nat × Point)) : List Point :=
  (List.range volume).map fun cw => (lastWrite writes cw).getD origin

/-- The writes of a PSK-family table: point `i` goes to codeword `gray(i)`, or to `i` when the scheme is not
Gray-coded (R182, R184). -/
def pskWrites (isGray : Bool) (volume : Nat) (pts : List Point) : List (Nat × Point) :=
  (List.range volume).map fun i => (if isGray then gray i else i, pts.getD i origin)

/-- The odd grid values `-b, -b+2, ..., b` (R188). -/
def oddAxis (b : Nat) : List Int := (List.range (b + 1)).map fun (k : Nat) => 2 * (k : Int) - (b : Int)

/-- One column of the serpentine traversal: upward or downward, the corners left out of a cross (R189). -/
def qamColumn (b : Nat) (cross up : Bool) (i : Int) : List (Int × Int) :=
  let qs := if up then oddAxis b else (oddAxis b).reverse
  (qs.filter fun q => !(cross && i.natAbs == b && q.natAbs == b)).map fun q => (i, q)

/-- The columns from a list of in-phase values, the direction alternating (R189). -/
def serpentine (b : Nat) (cross : Bool) : Bool → List Int → List (Int × Int)
  | _, [] => []
  | up, i :: is => qamColumn b cross up i ++ serpentine b cross (!up) is

/-- The retained grid points in the order of the sequential index (R189): in-phase ascending, the first
column upward. -/
def qamPath (b : Nat) (cross : Bool) : List (Int × Int) := serpentine b cross true (oddAxis b)

/-- The writes of a QAM table: the point at sequential index `seq`, scaled, goes to `gray(seq)` (R189). -/
def qamWrites (b : Nat) (cross : Bool) (norm : Int) : List (Nat × Point) :=
  ((List.range (qamPath b cross).length).zip (qamPath b cross)).map fun e =>
    (gray e.1, { I := e.2.1 * norm, Q := e.2.2 * norm })

/-- `CT[m]` under a configuration (R141, R184, R189). -/
def constellation (c : Config) (m : ModScheme) : List Point :=
  match m.shape with
  | .psk ix isGray => tableOf m.volume (pskWrites isGray m.volume (c.pskPt.get ix))
  | .qam ix b cross => tableOf m.volume (qamWrites b cross (c.normQ.get ix))

/-- `THR[m]` under a configuration (R187, R191). -/
def threshold (c : Config) (m : ModScheme) : Int :=
  match m.shape with
  | .psk ix _ => c.thrQ.get ix
  | .qam ix _ _ => c.normQ.get ix

/-- `dist2(p, t)`, the exact squared distance (R193). -/
def dist2 (p t : Point) : Int := (p.I - t.I) * (p.I - t.I) + (p.Q - t.Q) * (p.Q - t.Q)

/-- The scan of R195 over the entries left, `best` being the running best codeword and its distance. -/
def demodScan (thr : Int) (p : Point) : Option (Nat × Int) → List (Nat × Point) → Nat
  | none, [] => 0
  | some b, [] => b.1
  | best, e :: es =>
    let d := dist2 p e.2
    if d < thr * thr then e.1
    else match best with
      | none => demodScan thr p (some (e.1, d)) es
      | some b => if d < b.2 then demodScan thr p (some (e.1, d)) es else demodScan thr p (some b) es

/-- `demod(m, p)` over a table and its threshold: ascending codeword, early exit below the threshold, else the
first entry at the smallest distance (R195). -/
def demod (thr : Int) (table : List Point) (p : Point) : Nat :=
  demodScan thr p none ((List.range table.length).zip table)

/-- `sext_W` of the low `W` bits of a word (R11, R64). -/
def sextCoord (W : Nat) (w : Word) : Int := (w.setWidth W).toInt

/-- The two's-complement pattern of a coordinate in a 64-bit word, upper bits 0 (R199). -/
def coordPattern (W : Nat) (v : Int) : Word := BitVec.ofNat 64 (v % (2 ^ W : Int)).toNat

end Sys2Proof.Machine
end

