-- ==== Sys2Proof/Machine/ConfigCheck.lean ====
section
/-! DEFINITION. Which configurations the spec allows (spec/00_scope.md R7, spec/41_fec.md R146,
spec/93_implementation_defined.md U7: any other is refused). State can hold only a legal one. -/

namespace Sys2Proof.Machine

/-- A coordinate: `-2^(W-1) ≤ c < 2^(W-1)` (R11). -/
def inCoordRange (W : Nat) (v : Int) : Bool := -(2 ^ (W - 1) : Int) ≤ v && v < (2 ^ (W - 1) : Int)

/-- Both coordinates of a point are in range. -/
def pointInRange (W : Nat) (p : Point) : Bool := inCoordRange W p.I && inCoordRange W p.Q

/-- A generator polynomial of a scheme with `r` parity bits: length `r + 1`, first and last bit 1 (R7). -/
def genLegal (r : Nat) (g : Bits) : Bool :=
  g.length == r + 1 && g.head? == some true && g.getLast? == some true

/-- A set of indices below `n`, written in strictly rising order. -/
def indexSet (n : Nat) : List Nat → Bool
  | [] => true
  | i :: is => i < n && (match is with | [] => true | j :: _ => i < j) && indexSet n is

/-- The Hamming subsets meet R146: codewords have syndrome 0, and a codeword with bit `p` flipped has
syndrome `p + 1`, for all 16 data words and all 7 positions. -/
def hammingLegal (enc syn : HamSets) : Bool :=
  indexSet 4 enc.s0 && indexSet 4 enc.s1 && indexSet 4 enc.s2 &&
  indexSet 7 syn.s0 && indexSet 7 syn.s1 && indexSet 7 syn.s2 &&
  (List.range 16).all fun v =>
    let cw := hammingEncode enc (fromInteger 4 v)
    hammingSyndrome syn cw == 0 &&
    (List.range 7).all fun p => hammingSyndrome syn (withBit cw p (!bitAt cw p)) == p + 1

/-- The constraints on one modulation scheme's parameters: enough points, all in range, and a threshold that
is a non-negative coordinate (PSK family); a positive normalisation constant whose grid fits (QAM) (R7). -/
def modLegal (c : Config) (m : ModScheme) : Bool :=
  match m.shape with
  | .psk ix _ =>
    (c.pskPt.get ix).length == m.volume && (c.pskPt.get ix).all (pointInRange c.coordW) &&
    0 ≤ c.thrQ.get ix && inCoordRange c.coordW (c.thrQ.get ix)
  | .qam ix b _ => 0 < c.normQ.get ix && (b : Int) * c.normQ.get ix < (2 ^ (c.coordW - 1) : Int)

/-- The seventeen modulation schemes (R76). -/
def allModSchemes : List ModScheme :=
  [.ask, .fsk, .bpsk, .qpsk, .psk8, .psk16, .psk32, .psk64, .psk256, .psk1024, .psk4096,
   .qam16, .qam32, .qam64, .qam256, .qam1024, .qam4096]

/-- The configuration meets every constraint of R7. -/
def configLegal (c : Config) : Bool :=
  2 ≤ c.coordW && c.coordW ≤ 64 && c.coordF < c.coordW &&
  genLegal 3 c.gen.cyclic85 && genLegal 10 c.gen.bch155 && genLegal 8 c.gen.bch157 &&
  c.tCyclic85 ≤ 8 && hammingLegal c.hamEnc c.hamSyn && allModSchemes.all (modLegal c)

/-- A configuration that the spec allows. -/
abbrev LegalConfig := { c : Config // configLegal c = true }

end Sys2Proof.Machine
end

