-- ==== Sys2Proof/Machine/State.lean ====
section
/-! DEFINITION. The state of PGFEC (spec/10_state.md), its value after reset (R36), and the reasons a step can
stop. State is plain data; every field is named by the rule that gives it. -/

namespace Sys2Proof.Machine

/-- The phase register (R26). -/
inductive Phase where
  /-- After reset, tables not built. -/
  | uninit
  /-- Tables built, commands execute. -/
  | ready
  /-- A fatal error was raised; nothing executes until reset. -/
  | fatal
  deriving DecidableEq, Repr

/-- The causes a fatal error can have (`60` R221). -/
inductive FatalCause where
  | alloc
  | badenum
  | nullref
  | range
  deriving DecidableEq, Repr

/-- Why the machine stops. -/
inductive Fault where
  /-- Raised by `step`, and by every meaning, while `phase = FATAL`: no command has a step and only reset leaves
  (`60` R227, which asks a model to treat FATAL as a fault). Safe: the block does nothing there either. -/
  | fatalPhase
  deriving DecidableEq, Repr

/-- Why an instruction has no meaning. -/
inductive Refusal where
  /-- Raised by an arm of `exec` whose instruction has no meaning yet; no arm does. Safe: the model stops. -/
  | notModelled (mnemonic : String)
  deriving DecidableEq, Repr

/-- The machine. `cfg` is the configuration, fixed for the machine and never changed by a step (R34, log 1);
`opened`, `port` and `resetIn` are the command port and the reset input (`70` R250, R258, logs 5 and 7). -/
structure State where
  /-- The configuration record (`00` R7), a legal one (log 8). -/
  cfg : LegalConfig
  /-- `phase` (R26). -/
  phase : Phase
  /-- Block registers (R20): `none` is `alloc = 0`, `some s` is `alloc = 1`, `len = s.length`, `bit[i] = s[i]`. -/
  b : Vector (Option Bits) 64
  /-- Point registers (R23): `none` is `valid = 0`. -/
  p : Vector (Option Point) 64
  /-- `ACC` (R24). -/
  acc : Word
  /-- `NODATA` (R25). -/
  nodata : Bool
  /-- `FCAUSE` (R27). -/
  fcause : BitVec 3
  /-- `FCMD` (R28). -/
  fcmd : Word
  /-- `GENR` (R31). -/
  genr : PerCrc Bits
  /-- `ST` (R32). -/
  st : PerCrc (List SynEntry)
  /-- `CT` (R33), by scheme identifier. -/
  ct : Vector (List Point) 17
  /-- `THR` (R33), by scheme identifier. -/
  thr : Vector Int 17
  /-- The words accepted of a command that is not complete yet (`70` R250, R258). -/
  opened : List Word
  /-- The words that the host presents and the block has not accepted (`70` R258). -/
  port : List Word
  /-- The reset input (`70` R250). -/
  resetIn : Bool
  deriving DecidableEq, Repr

/-- A step's outcome. -/
abbrev Result := Host.Outcome State Fault Refusal

/-- The state after reset under a configuration (R36), with the words that the host still presents. -/
def State.afterReset (cfg : LegalConfig) (port : List Word) : State where
  cfg := cfg
  phase := .uninit
  b := Vector.replicate 64 none
  p := Vector.replicate 64 none
  acc := 0
  nodata := false
  fcause := 0
  fcmd := 0
  genr := { cyclic85 := [], bch155 := [], bch157 := [] }
  st := { cyclic85 := [], bch155 := [], bch157 := [] }
  ct := Vector.replicate 17 []
  thr := Vector.replicate 17 0
  opened := []
  port := port
  resetIn := false

/-- The machine right after reset (R36), with the default configuration and no word presented. -/
def State.reset : State := State.afterReset ⟨defaultConfig, defaultConfig_legal⟩ []

end Sys2Proof.Machine
end

