-- ==== Sys2Proof/Machine/Ops.lean ====
section
/-! DEFINITION. The named operations over the state: register files, fatal entry and reset, the frame of a
command, table building and the read port. -/

namespace Sys2Proof.Machine

/-! ## Register files (spec/10_state.md R20, R23) -/

/-- The block in register `r`, none when `alloc = 0`. -/
def State.blk (s : State) (r : Nat) : Option Bits := (s.b[r]?).join

/-- The point in register `k`, none when `valid = 0`. -/
def State.pt (s : State) (k : Nat) : Option Point := (s.p[k]?).join

/-- `B[r] <- blk(x)` (R12, R21): the register is re-created. -/
def State.putBlk (s : State) (r : Nat) (x : Bits) : State := { s with b := s.b.setIfInBounds r (some x) }

/-- `B[r].alloc <- 0` (R104). -/
def State.freeBlk (s : State) (r : Nat) : State := { s with b := s.b.setIfInBounds r none }

/-- `P[k].I <- t.I; P[k].Q <- t.Q; P[k].valid <- 1`. -/
def State.putPt (s : State) (k : Nat) (t : Point) : State := { s with p := s.p.setIfInBounds k (some t) }

/-- `B[base+j] <- blk(xs[j])` for every `j` (R68: element `j` is register `base + j`). -/
def State.putBlks (s : State) : Nat → List Bits → State
  | _, [] => s
  | base, x :: xs => State.putBlks (s.putBlk base x) (base + 1) xs

/-- `P[base+j] <- ts[j]` for every `j`. -/
def State.putPts (s : State) : Nat → List Point → State
  | _, [] => s
  | base, t :: ts => State.putPts (s.putPt base t) (base + 1) ts

/-- `ACC <- v` (R24). -/
def State.putAcc (s : State) (v : Word) : State := { s with acc := v }

/-! ## Fatal entry and reset -/

/-- Cause codes (`60` R221). -/
def causeCode : FatalCause → BitVec 3
  | .alloc => 1
  | .badenum => 2
  | .nullref => 3
  | .range => 4

/-- `raise Fatal(cause)` with the faulting command word (`60` R226): these three writes and nothing else. -/
def State.raiseFatal (s : State) (cause : FatalCause) (w : Word) : State :=
  { s with fcause := causeCode cause, fcmd := w, phase := .fatal }

/-- Reset, the only exit from FATAL (`70` R250): every piece of state takes its reset value; the configuration
is the machine's own and the words presented are the host's. -/
def State.takeReset (s : State) : State := State.afterReset s.cfg s.port

/-! ## The frame of a command -/

/-- Steps 2 to 4 of `60` R225 for a command other than `INIT`: nothing in FATAL (R227), NULLREF in UNINIT, else
the command's own checks and writes; a failed check raises its cause and discards every write (R226). -/
def command (i : Instr) (s : State) (body : Except FatalCause State) : Result :=
  match s.phase with
  | .fatal => .fault .fatalPhase
  | .uninit => .next (s.raiseFatal .nullref i.word)
  | .ready =>
    match body with
    | .ok t => .next t
    | .error cause => .next (s.raiseFatal cause i.word)

/-! ## Tables (`41` R140, R141) -/

/-- The generator registers that `INIT` writes (R31, R141). -/
def builtGenr (c : Config) : PerCrc Bits := c.gen

/-- The syndrome tables that `INIT` writes (R141, R148). -/
def builtSt (c : Config) : PerCrc (List SynEntry) :=
  { cyclic85 := synTable c .cyclic85, bch155 := synTable c .bch155, bch157 := synTable c .bch157 }

/-- The constellation tables that `INIT` writes (R141, `42` R184, R189). -/
def builtCt (c : Config) : Vector (List Point) 17 :=
  #v[constellation c .ask, constellation c .fsk, constellation c .bpsk, constellation c .qpsk,
     constellation c .psk8, constellation c .psk16, constellation c .psk32, constellation c .psk64,
     constellation c .psk256, constellation c .psk1024, constellation c .psk4096, constellation c .qam16,
     constellation c .qam32, constellation c .qam64, constellation c .qam256, constellation c .qam1024,
     constellation c .qam4096]

/-- The thresholds that `INIT` writes (R141, `42` R187, R191). -/
def builtThr (c : Config) : Vector Int 17 :=
  #v[threshold c .ask, threshold c .fsk, threshold c .bpsk, threshold c .qpsk, threshold c .psk8,
     threshold c .psk16, threshold c .psk32, threshold c .psk64, threshold c .psk256, threshold c .psk1024,
     threshold c .psk4096, threshold c .qam16, threshold c .qam32, threshold c .qam64, threshold c .qam256,
     threshold c .qam1024, threshold c .qam4096]

/-- The effect of `INIT` in UNINIT (R140): every table built, then READY. -/
def State.buildTables (s : State) : State :=
  { s with
    genr := builtGenr s.cfg.val, st := builtSt s.cfg.val, ct := builtCt s.cfg.val, thr := builtThr s.cfg.val,
    phase := .ready }

/-- Entry `CT[m][cw]`; an entry past the table reads as the origin. -/
def State.tablePoint (s : State) (m : ModScheme) (cw : Nat) : Point := (s.ct.get m.id).getD cw origin

/-- `demod(m, p)` with the tables as they stand (`42` R195). -/
def State.demodulate (s : State) (m : ModScheme) (t : Point) : Nat := demod (s.thr.get m.id) (s.ct.get m.id) t

/-! ## The command port (`70` R258) -/

/-- The words of the open command and those presented after them, in order. -/
def State.stream (s : State) : List Word := s.opened ++ s.port

/-- A complete command has been accepted; `rest` is what the host presents after it. -/
def State.accept (s : State) (rest : List Word) : State := { s with opened := [], port := rest }

/-- The words presented do not complete a command: they are accepted, and the block waits for the rest. -/
def State.acceptPart (s : State) : State := { s with opened := s.stream, port := [] }

/-- The block is ready for a word (R258): never in FATAL; between two steps it executes nothing. -/
def State.portReady (s : State) : Bool := s.phase ≠ .fatal

/-! ## The read port (`10` R30) -/

/-- The `STATUS` register: bit 0 READY, bit 1 FATAL, bit 2 NODATA, the rest 0. -/
def State.status (s : State) : Word :=
  (if s.phase = .ready then 1 else 0) ||| (if s.phase = .fatal then 2 else 0) ||| (if s.nodata then 4 else 0)

/-- What a host read at an address returns; addresses 4 and above read as 0. -/
def State.readPort (s : State) (address : Nat) : Word :=
  match address with
  | 0 => s.status
  | 1 => s.fcause.setWidth 64
  | 2 => s.fcmd
  | 3 => s.acc
  | _ => 0

end Sys2Proof.Machine
end

