-- ==== Sys2Proof/Machine/Flags.lean ====
section
/-! DEFINITION. The one flag, `NODATA`, and the values that commands write to `ACC` beside it
(spec/10_state.md R24, R25). -/

namespace Sys2Proof.Machine

/-- A bit zero-extended to 64 bits (R105). -/
def bitWord (v : Bool) : Word := if v then 1 else 0

/-- `NODATA <- 1 if out = 0 else 0` (R25). -/
def noDataOf (out : Nat) : Bool := out == 0

/-- The last two lines of every array command: `ACC <- out` and `NODATA` (R118, R150, R152, R194, R196). -/
def State.arrayDone (s : State) (out : Nat) : State :=
  { s with acc := BitVec.ofNat 64 out, nodata := noDataOf out }

end Sys2Proof.Machine
end

