-- ==== Sys2Proof/Machine/Operands.lean ====
section
/-! DEFINITION. The operand checks of the command rules, each answering the operand or the cause it raises
(spec/00_scope.md R12, spec/30_encoding.md R68, spec/60_exceptions.md R225). -/

namespace Sys2Proof.Machine

/-- A check and what it yields, or the cause of the fatal error it raises. -/
abbrev Checked (α : Type) := Except FatalCause α

/-- `if not c then raise Fatal(cause)`. -/
def require (c : Bool) (cause : FatalCause) : Checked Unit := if c then .ok () else .error cause

/-- An operand that must be there. -/
def present {α : Type} (o : Option α) (cause : FatalCause) : Checked α :=
  match o with
  | some x => .ok x
  | none => .error cause

/-- `need_reg(r); need_blk(r)`: RANGE past the last register, NULLREF when unallocated; else the block (R12). -/
def needBlk (s : State) (r : Nat) : Checked Bits :=
  if r < NB then present (s.blk r) .nullref else .error .range

/-- The point of a register, NULLREF when `valid = 0` (R199). -/
def needPt (s : State) (k : Nat) : Checked Point :=
  if k < NP then present (s.pt k) .nullref else .error .range

/-- `need_idx(r, i)` on the block that register `r` holds (R12). -/
def needIdx (x : Bits) (i : Nat) : Checked Unit := require (i < x.length) .range

/-- An array operand is in range iff `base + count ≤ 64` (R68). -/
def needArray (base count : Nat) : Checked Unit := require (base + count ≤ 64) .range

/-- The `count` source blocks from `base`, NULLREF for the lowest unallocated one (R118, R150, R225). -/
def sourceBlks (s : State) : Nat → Nat → Checked (List Bits)
  | _, 0 => .ok []
  | base, n + 1 => do
    let x ← present (s.blk base) .nullref
    let xs ← sourceBlks s (base + 1) n
    .ok (x :: xs)

/-- The `count` source points from `base`, NULLREF for the lowest invalid one (R196). -/
def sourcePts (s : State) : Nat → Nat → Checked (List Point)
  | _, 0 => .ok []
  | base, n + 1 => do
    let t ← present (s.pt base) .nullref
    let ts ← sourcePts s (base + 1) n
    .ok (t :: ts)

/-- Every source block has the exact length, where the scheme has one (R150, R152, R194). -/
def needSize (size : Option Nat) (xs : List Bits) : Checked Unit :=
  match size with
  | some len => require (xs.all fun x => x.length == len) .range
  | none => .ok ()

/-- The source blocks of `BRECHUNK` have one length (R118). -/
def needUniform (xs : List Bits) : Checked Unit :=
  require (xs.all fun x => x.length == (xs.headD []).length) .range

/-- The scheme of `FENC` and `FDEC` (R67 e, R75). -/
def needFec (sch : SchemeId) : Checked FecScheme := present (FecScheme.ofId sch) .badenum

/-- The scheme of `FSYNRD` and `FGENRD` (R67 e). -/
def needCrc (sch : SchemeId) : Checked CrcScheme := present (CrcScheme.ofId sch) .badenum

/-- The scheme of `MMOD`, `MDEM` and `MTABRD` (R67 e, R76). -/
def needMod (sch : SchemeId) : Checked ModScheme := present (ModScheme.ofId sch) .badenum

end Sys2Proof.Machine
end

