-- ==== Sys2Proof/Machine/BitBlock.lean ====
section
/-! DEFINITION. The sixteen Bit-Block commands (spec/40_bitblock.md R103 to R118). -/

namespace Sys2Proof.Machine

/-- `BCREATE` (R103). -/
def execBcreate (ra : RegIx) (n : Num12) (s : State) : Result :=
  command (.bcreate ra n) s do
    require (n.toNat ≤ MAXLEN) .alloc
    .ok (s.putBlk ra.toNat (zeros n.toNat))

/-- `BDESTROY` (R104). -/
def execBdestroy (ra : RegIx) (s : State) : Result :=
  command (.bdestroy ra) s do
    let _ ← needBlk s ra.toNat
    .ok (s.freeBlk ra.toNat)

/-- `BGET` (R105). -/
def execBget (ra : RegIx) (x : Num12) (s : State) : Result :=
  command (.bget ra x) s do
    let a ← needBlk s ra.toNat
    needIdx a x.toNat
    .ok (s.putAcc (bitWord (bitAt a x.toNat)))

/-- `BSET` (R106). -/
def execBset (ra : RegIx) (x : Num12) (v : Bool) (s : State) : Result :=
  command (.bset ra x v) s do
    let a ← needBlk s ra.toNat
    needIdx a x.toNat
    .ok (s.putBlk ra.toNat (withBit a x.toNat v))

/-- `BXORI` (R107). -/
def execBxori (ra : RegIx) (x : Num12) (v : Bool) (s : State) : Result :=
  command (.bxori ra x v) s do
    let a ← needBlk s ra.toNat
    needIdx a x.toNat
    .ok (s.putBlk ra.toNat (withBit a x.toNat (bitAt a x.toNat ^^ v)))

/-- `BCPBIT` (R108). -/
def execBcpbit (ra : RegIx) (x : Num12) (rb : RegIx) (y : Num12) (s : State) : Result :=
  command (.bcpbit ra x rb y) s do
    let a ← needBlk s ra.toNat
    let b ← needBlk s rb.toNat
    needIdx a x.toNat
    needIdx b y.toNat
    .ok (s.putBlk ra.toNat (withBit a x.toNat (bitAt b y.toNat)))

/-- `BFLIP` (R109). -/
def execBflip (ra : RegIx) (x : Num12) (s : State) : Result :=
  command (.bflip ra x) s do
    let a ← needBlk s ra.toNat
    needIdx a x.toNat
    .ok (s.putBlk ra.toNat (withBit a x.toNat (!bitAt a x.toNat)))

/-- `BCMP` (R110). -/
def execBcmp (ra : RegIx) (x : Num12) (rb : RegIx) (y : Num12) (s : State) : Result :=
  command (.bcmp ra x rb y) s do
    let a ← needBlk s ra.toNat
    let b ← needBlk s rb.toNat
    needIdx a x.toNat
    needIdx b y.toNat
    .ok (s.putAcc (bitWord (bitAt a x.toNat == bitAt b y.toNat)))

/-- `BTOINT` (R111). -/
def execBtoint (ra : RegIx) (s : State) : Result :=
  command (.btoint ra) s do
    let a ← needBlk s ra.toNat
    .ok (s.putAcc (BitVec.ofNat 64 (toInteger a)))

/-- `BFROMINT` (R112). -/
def execBfromint (ra : RegIx) (value : Word) (s : State) : Result :=
  command (.bfromint ra value) s do
    let a ← needBlk s ra.toNat
    .ok (s.putBlk ra.toNat (fromInteger a.length value.toNat))

/-- `BFROMSTR` (R113). -/
def execBfromstr (ra : RegIx) (chars : List Byte) (s : State) : Result :=
  command (.bfromstr ra chars) s do
    let a ← needBlk s ra.toNat
    require (chars.length ≤ a.length) .range
    .ok (s.putBlk ra.toNat (fromString a.length chars))

/-- `BDIVMOD` (R114). -/
def execBdivmod (ra rb rc : RegIx) (s : State) : Result :=
  command (.bdivmod ra rb rc) s do
    let d ← needBlk s rb.toNat
    let g ← needBlk s rc.toNat
    require (g.length ≠ 0) .range
    require (g.length - 1 ≤ d.length) .range
    .ok (s.putBlk ra.toNat (gf2Rem d g))

/-- `BXOR` (R115). -/
def execBxor (ra rb : RegIx) (s : State) : Result :=
  command (.bxor ra rb) s do
    let a ← needBlk s ra.toNat
    let b ← needBlk s rb.toNat
    require (a.length == b.length) .range
    .ok (s.putBlk ra.toNat (xorBits a b))

/-- `BMXOR` (R116). -/
def execBmxor (ra : RegIx) (idxs : List Lane) (s : State) : Result :=
  command (.bmxor ra idxs) s do
    let a ← needBlk s ra.toNat
    require (idxs.all fun k => k.toNat < a.length) .range
    .ok (s.putAcc (bitWord (xorAt a (idxs.map fun k => k.toNat))))

/-- `BCOPY` (R117). -/
def execBcopy (ra : RegIx) (x : Num12) (rb : RegIx) (y n : Num12) (s : State) : Result :=
  command (.bcopy ra x rb y n) s do
    let a ← needBlk s ra.toNat
    let b ← needBlk s rb.toNat
    require (x.toNat + n.toNat ≤ a.length) .range
    require (y.toNat + n.toNat ≤ b.length) .range
    .ok (s.putBlk ra.toNat (copyRange a x.toNat b y.toNat n.toNat))

/-- `BRECHUNK` (R118). -/
def execBrechunk (ra rb : RegIx) (x n : Num12) (s : State) : Result :=
  command (.brechunk ra rb x n) s do
    needArray rb.toNat x.toNat
    let xs ← sourceBlks s rb.toNat x.toNat
    needUniform xs
    require (n.toNat ≠ 0) .range
    let out := rechunk xs n.toNat
    needArray ra.toNat out.length
    .ok ((s.putBlks ra.toNat out).arrayDone out.length)

end Sys2Proof.Machine
end

