-- ==== Sys2Proof/Machine/Fec.lean ====
section
/-! DEFINITION. The FEC commands (spec/41_fec.md R150, R152, R154, R155). -/

namespace Sys2Proof.Machine

/-- The common form of `FENC` and `FDEC`: check the array, its elements and its lengths, then transform each
element (R150, R152, `20` R52). -/
def codeArray (ra rb : RegIx) (count : Nat) (size : Option Nat) (f : Bits → Bits) (s : State) : Checked State := do
  needArray rb.toNat count
  let xs ← sourceBlks s rb.toNat count
  needSize size xs
  needArray ra.toNat count
  .ok ((s.putBlks ra.toNat (xs.map f)).arrayDone count)

/-- `FENC` (R150). -/
def execFenc (ra rb : RegIx) (sch : SchemeId) (x : Num12) (s : State) : Result :=
  command (.fenc ra rb sch x) s do
    let f ← needFec sch
    codeArray ra rb x.toNat f.encodeSize (fecEncode s.cfg.val.hamEnc s.genr f) s

/-- `FDEC` (R152). -/
def execFdec (ra rb : RegIx) (sch : SchemeId) (x : Num12) (s : State) : Result :=
  command (.fdec ra rb sch x) s do
    let f ← needFec sch
    codeArray ra rb x.toNat f.decodeSize (fecDecode s.cfg.val.hamSyn s.genr s.st f) s

/-- `FSYNRD` (R154). -/
def execFsynrd (ra : RegIx) (sch : SchemeId) (x : Num12) (s : State) : Result :=
  command (.fsynrd ra sch x) s do
    let f ← needCrc sch
    require (x.toNat < 2 ^ f.parityBits) .range
    let e := synLookup f.codeBits (s.st.get f) x.toNat
    .ok ((s.putBlk ra.toNat e.pat).putAcc (bitWord e.present))

/-- `FGENRD` (R155). -/
def execFgenrd (ra : RegIx) (sch : SchemeId) (s : State) : Result :=
  command (.fgenrd ra sch) s do
    let f ← needCrc sch
    .ok (s.putBlk ra.toNat (s.genr.get f))

end Sys2Proof.Machine
end

