-- ==== Sys2Proof/Machine/Init.lean ====
section
/-! DEFINITION. `INIT` (spec/41_fec.md R140). -/

namespace Sys2Proof.Machine

/-- `INIT`: builds every table in UNINIT, has no effect in READY (R140). -/
def execInit (s : State) : Result :=
  match s.phase with
  | .fatal => .fault .fatalPhase
  | .uninit => .next s.buildTables
  | .ready => .next s

end Sys2Proof.Machine
end

