-- ==== Sys2Proof/Machine/Modem.lean ====
section
/-! DEFINITION. The modem commands (spec/42_modem.md R194, R196, R198 to R200). -/

namespace Sys2Proof.Machine

/-- `MMOD` (R194). -/
def execMmod (ra rb : RegIx) (sch : SchemeId) (x : Num12) (s : State) : Result :=
  command (.mmod ra rb sch x) s do
    let m ← needMod sch
    needArray rb.toNat x.toNat
    let xs ← sourceBlks s rb.toNat x.toNat
    needSize (some m.bits) xs
    needArray ra.toNat x.toNat
    .ok ((s.putPts ra.toNat (xs.map fun w => s.tablePoint m (toInteger w))).arrayDone x.toNat)

/-- `MDEM` (R196). -/
def execMdem (ra rb : RegIx) (sch : SchemeId) (x : Num12) (s : State) : Result :=
  command (.mdem ra rb sch x) s do
    let m ← needMod sch
    needArray rb.toNat x.toNat
    let ts ← sourcePts s rb.toNat x.toNat
    needArray ra.toNat x.toNat
    .ok ((s.putBlks ra.toNat (ts.map fun t => fromInteger m.bits (s.demodulate m t))).arrayDone x.toNat)

/-- `PSET` (R198). -/
def execPset (ra : RegIx) (i q : Word) (s : State) : Result :=
  command (.pset ra i q) s
    (.ok (s.putPt ra.toNat { I := sextCoord s.cfg.val.coordW i, Q := sextCoord s.cfg.val.coordW q }))

/-- `PGET` (R199). -/
def execPget (ra : RegIx) (y : Comp) (s : State) : Result :=
  command (.pget ra y) s do
    let t ← needPt s ra.toNat
    let v := match y with
      | .I => t.I
      | .Q => t.Q
    .ok (s.putAcc (coordPattern s.cfg.val.coordW v))

/-- `MTABRD` (R200). -/
def execMtabrd (ra : RegIx) (sch : SchemeId) (x : Num12) (s : State) : Result :=
  command (.mtabrd ra sch x) s do
    let m ← needMod sch
    require (x.toNat < m.volume) .range
    .ok (s.putPt ra.toNat (s.tablePoint m x.toNat))

end Sys2Proof.Machine
end

