-- ==== Sys2Proof/Machine/Dispatch.lean ====
section
/-! DEFINITION. Which meaning each command has, one arm per constructor of `Instr`. -/

namespace Sys2Proof.Machine

def exec (i : Instr) (s : State) : Host.Outcome State Fault Refusal :=
  match i with
  | .init => Sys2Proof.Machine.execInit s
  | .bcreate ra n => Sys2Proof.Machine.execBcreate ra n s
  | .bdestroy ra => Sys2Proof.Machine.execBdestroy ra s
  | .bget ra x => Sys2Proof.Machine.execBget ra x s
  | .bset ra x v => Sys2Proof.Machine.execBset ra x v s
  | .bxori ra x v => Sys2Proof.Machine.execBxori ra x v s
  | .bcpbit ra x rb y => Sys2Proof.Machine.execBcpbit ra x rb y s
  | .bflip ra x => Sys2Proof.Machine.execBflip ra x s
  | .bcmp ra x rb y => Sys2Proof.Machine.execBcmp ra x rb y s
  | .btoint ra => Sys2Proof.Machine.execBtoint ra s
  | .bfromint ra value => Sys2Proof.Machine.execBfromint ra value s
  | .bfromstr ra chars => Sys2Proof.Machine.execBfromstr ra chars s
  | .bdivmod ra rb rc => Sys2Proof.Machine.execBdivmod ra rb rc s
  | .bxor ra rb => Sys2Proof.Machine.execBxor ra rb s
  | .bmxor ra idxs => Sys2Proof.Machine.execBmxor ra idxs s
  | .bcopy ra x rb y n => Sys2Proof.Machine.execBcopy ra x rb y n s
  | .brechunk ra rb x n => Sys2Proof.Machine.execBrechunk ra rb x n s
  | .fenc ra rb sch x => Sys2Proof.Machine.execFenc ra rb sch x s
  | .fdec ra rb sch x => Sys2Proof.Machine.execFdec ra rb sch x s
  | .fsynrd ra sch x => Sys2Proof.Machine.execFsynrd ra sch x s
  | .fgenrd ra sch => Sys2Proof.Machine.execFgenrd ra sch s
  | .mmod ra rb sch x => Sys2Proof.Machine.execMmod ra rb sch x s
  | .mdem ra rb sch x => Sys2Proof.Machine.execMdem ra rb sch x s
  | .pset ra i1 q => Sys2Proof.Machine.execPset ra i1 q s
  | .pget ra y => Sys2Proof.Machine.execPget ra y s
  | .mtabrd ra sch x => Sys2Proof.Machine.execMtabrd ra sch x s

end Sys2Proof.Machine
end

