-- ==== Sys2Proof/Machine/Step.lean ====
section
/-! DEFINITION. One step of the block: the reset input, FATAL, then one command from the command port
(spec/70_reset_and_hazards.md R250, R258, spec/60_exceptions.md R225, R227). -/

namespace Sys2Proof.Machine

/-- One step. The reset input wins in every phase (R250). In FATAL nothing is accepted (R227). Otherwise the
block takes the next command from the words presented: an illegal word raises BADENUM (R225 step 1), a legal
one executes; when the words do not complete a command they are accepted and the block waits, and with no word
it waits for one (R251, R258, log 6). -/
def step (s : State) : Host.Outcome State Fault Refusal :=
  if s.resetIn then .next s.takeReset
  else
    match s.phase with
    | .fatal => .fault .fatalPhase
    | .uninit | .ready =>
      match fetch s.stream with
      | .idle => .next s
      | .incomplete => .next s.acceptPart
      | .command w payload rest =>
        match decodeCommand w payload with
        | .ok i => exec i (s.accept rest)
        | .error _ => .next ((s.accept rest).raiseFatal .badenum w)

/-- The state in which the host presents, before every other word, the instruction whose bits are the low
`nbits` bits of `w` numbered as spec/opcode_table.json numbers them; no command is open and reset is not
asserted, so that the next step takes exactly that instruction. -/
def State.withFetchWord (s : State) (nbits w : Nat) : State :=
  { s with opened := [], port := tableWords nbits w ++ s.port, resetIn := false }

end Sys2Proof.Machine
end

