-- ==== Sys2Proof/Machine/Literal.lean ====
section
/-! DEFINITION. The spec's procedures written as the loops they are, index by index. The machine does not call
them: the statements compare the machine's own functions with them (spec/40_bitblock.md R102, R119,
spec/41_fec.md R148, spec/42_modem.md R184, R189). -/

namespace Sys2Proof.Machine

/-- `w[i+j] <- w[i+j] ^ g[j]` for `j` from 0 to `M-1` (R102, inner loop). -/
def literalXorAt (g w : Bits) (i : Nat) : Bits :=
  (List.range g.length).foldl (fun w j => w.set (i + j) (w.getD (i + j) false ^^ g.getD j false)) w

/-- `gf2_rem(d, g)` as R102 writes it: `i` from 0 to `N-M`, then the last `M-1` bits. -/
def literalRem (d g : Bits) : Bits :=
  let w := (List.range (d.length + 1 - g.length)).foldl
    (fun w i => if w.getD i false then literalXorAt g w i else w) d
  w.drop (d.length - (g.length - 1))

/-- `rechunk(blocks, target)` as R119 writes it, bit by bit. -/
def literalRechunk (blocks : List Bits) (target : Nat) : List Bits :=
  let stream := blocks.flatten
  let total := stream.length
  (List.range ((total + target - 1) / target)).map fun j =>
    (List.range target).map fun t => if j * target + t < total then stream.getD (j * target + t) false else false

/-- `n, n-1, ..., 1`. -/
def descending : Nat → List Nat
  | 0 => []
  | n + 1 => (n + 1) :: descending n

/-- The number of 1 bits of `v` among its low `len` bits (R11). -/
def popcount (len v : Nat) : Nat := (fromInteger len v).count true

/-- The construction of R148: the table and the test message through the descending enumeration of every
integer from `2^len - 1` to 1. -/
def literalSyn (len r t : Nat) (g : Bits) : List SynEntry :=
  ((descending (2 ^ len - 1)).foldl
    (fun (acc : List SynEntry × Bits) e =>
      if popcount len e > t then acc
      else
        let pat := fromInteger len e
        let test := xorBits acc.2 pat
        let v := toInteger (literalRem test g)
        (acc.1.set v { present := true, pat := pat }, xorBits test pat))
    (List.replicate (2 ^ r) { present := false, pat := zeros len }, zeros len)).1

/-- The construction of R184: `CT[cw] <- PSKPT[i]` for every index. -/
def literalPsk (isGray : Bool) (volume : Nat) (pts : List Point) : List Point :=
  (List.range volume).foldl
    (fun table i => table.set (if isGray then i ^^^ (i >>> 1) else i) (pts.getD i { I := 0, Q := 0 }))
    (List.replicate volume { I := 0, Q := 0 })

/-- The working state of the construction of R189: the table, `seq` and `up`. -/
structure QamLoop where
  table : List Point
  seq : Nat
  up : Bool

/-- One point of R189: a corner of QAM32 is skipped without advancing `seq`. -/
def literalQamPoint (b : Nat) (cross : Bool) (g i : Int) (a : QamLoop) (q : Int) : QamLoop :=
  if cross ∧ |i| = b ∧ |q| = b then a
  else { a with table := a.table.set (a.seq ^^^ (a.seq >>> 1)) { I := i * g, Q := q * g }, seq := a.seq + 1 }

/-- One column of R189, upward or downward, and then the direction changes. -/
def literalQamColumn (b : Nat) (cross : Bool) (g : Int) (a : QamLoop) (i : Int) : QamLoop :=
  let up := (List.range (b + 1)).map fun (k : Nat) => -(b : Int) + 2 * k
  let down := (List.range (b + 1)).map fun (k : Nat) => (b : Int) - 2 * k
  let done := (if a.up then up else down).foldl (literalQamPoint b cross g i) a
  { done with up := !a.up }

/-- The construction of R189 over all columns. -/
def literalQam (b : Nat) (cross : Bool) (g : Int) (volume : Nat) : List Point :=
  (((List.range (b + 1)).map fun (k : Nat) => -(b : Int) + 2 * k).foldl (literalQamColumn b cross g)
    { table := List.replicate volume { I := 0, Q := 0 }, seq := 0, up := true }).table

/-- `sext_W` of a number: its low `W` bits as a two's-complement integer (R11). -/
def literalSext (W n : Nat) : Int :=
  if n % 2 ^ W < 2 ^ (W - 1) then ((n % 2 ^ W : Nat) : Int) else ((n % 2 ^ W : Nat) : Int) - 2 ^ W

/-! ## The opcode table -/

/-- A row of spec/opcode_table.json: a word is the row's command iff it agrees with `value` on the bits of `mask`. -/
structure OpcodeRow where
  mnemonic : String
  value : Word
  mask : Word

/-- The twenty-six rows, `match` and `mask` as the table has them. -/
def opcodeRows : List OpcodeRow :=
  [{ mnemonic := "INIT", value := 0x0100000000000000, mask := 0xFFFFFFFFFFFFFFFF },
   { mnemonic := "BCREATE", value := 0x1000000000000000, mask := 0xFF03FFFFFFFFF000 },
   { mnemonic := "BDESTROY", value := 0x1100000000000000, mask := 0xFF03FFFFFFFFFFFF },
   { mnemonic := "BGET", value := 0x1200000000000000, mask := 0xFF03FFF000FFFFFF },
   { mnemonic := "BSET", value := 0x1300000000000000, mask := 0xFF03FFF000FFEFFF },
   { mnemonic := "BXORI", value := 0x1400000000000000, mask := 0xFF03FFF000FFEFFF },
   { mnemonic := "BCPBIT", value := 0x1500000000000000, mask := 0xFF000FF000000FFF },
   { mnemonic := "BFLIP", value := 0x1600000000000000, mask := 0xFF03FFF000FFFFFF },
   { mnemonic := "BCMP", value := 0x1700000000000000, mask := 0xFF000FF000000FFF },
   { mnemonic := "BTOINT", value := 0x1800000000000000, mask := 0xFF03FFFFFFFFFFFF },
   { mnemonic := "BFROMINT", value := 0x1900000000000000, mask := 0xFF03FFFFFFFFFFFF },
   { mnemonic := "BFROMSTR", value := 0x1A00000000000000, mask := 0xFF03FFFFFFFFF000 },
   { mnemonic := "BDIVMOD", value := 0x1B00000000000000, mask := 0xFF00003FFFFFFFFF },
   { mnemonic := "BXOR", value := 0x1C00000000000000, mask := 0xFF000FFFFFFFFFFF },
   { mnemonic := "BMXOR", value := 0x1D00000000000000, mask := 0xFF03FFFFFFFFF000 },
   { mnemonic := "BCOPY", value := 0x1E00000000000000, mask := 0xFF000FF000000000 },
   { mnemonic := "BRECHUNK", value := 0x1F00000000000000, mask := 0xFF000FF000FFF000 },
   { mnemonic := "FENC", value := 0x2000000000000000, mask := 0xFF00003000FFFFFF },
   { mnemonic := "FDEC", value := 0x2100000000000000, mask := 0xFF00003000FFFFFF },
   { mnemonic := "FSYNRD", value := 0x2200000000000000, mask := 0xFF03F03000FFFFFF },
   { mnemonic := "FGENRD", value := 0x2300000000000000, mask := 0xFF03F03FFFFFFFFF },
   { mnemonic := "MMOD", value := 0x3000000000000000, mask := 0xFF00003000FFFFFF },
   { mnemonic := "MDEM", value := 0x3100000000000000, mask := 0xFF00003000FFFFFF },
   { mnemonic := "PSET", value := 0x3200000000000000, mask := 0xFF03FFFFFFFFFFFF },
   { mnemonic := "PGET", value := 0x3300000000000000, mask := 0xFF03FFFFFFFFEFFF },
   { mnemonic := "MTABRD", value := 0x3400000000000000, mask := 0xFF03F03000FFFFFF }]

/-- The word is one of the twenty-six commands with all its unused fields 0 (R69). -/
def matchesTable (w : Word) : Prop := ∃ row ∈ opcodeRows, w &&& row.mask = row.value

end Sys2Proof.Machine
end

