-- ==== Sys2Proof/Safety.lean ====
section
/-! DEFINITION. The terms in which claims about PGFEC are stated: what a safe state is, what a command leaves
as it was, what it means that a command raises a fatal error or has exactly a given effect. -/

namespace Sys2Proof.Machine

/-! ## Invariants of the machine -/

/-- Every block fits its register (`10` R20: `len` is 0 to MAXLEN). -/
def State.blocksFit (s : State) : Prop := ∀ r x, s.blk r = some x → x.length ≤ MAXLEN

/-- Every valid point holds coordinates (`00` R11, `10` R23). -/
def State.pointsFit (s : State) : Prop := ∀ k t, s.pt k = some t → pointInRange s.cfg.val.coordW t = true

/-- The tables hold what `INIT` builds from the configuration (`41` R141). -/
def State.tablesBuilt (s : State) : Prop :=
  s.genr = builtGenr s.cfg.val ∧ s.st = builtSt s.cfg.val ∧ s.ct = builtCt s.cfg.val ∧ s.thr = builtThr s.cfg.val

/-- The diagnostic registers name a cause in FATAL and are clear otherwise (`10` R27, R28, `60` R221). -/
def State.diagnosticFits (s : State) : Prop :=
  (s.phase = .fatal → ∃ cause, s.fcause = causeCode cause) ∧ (s.phase ≠ .fatal → s.fcause = 0 ∧ s.fcmd = 0)

/-- The words accepted of an open command do not complete it (`70` R258). -/
def State.openIncomplete (s : State) : Prop := ∀ w payload rest, fetch s.opened ≠ .command w payload rest

/-- The states a run can be in. -/
structure State.Inv (s : State) : Prop where
  blocks : s.blocksFit
  points : s.pointsFit
  tables : s.phase = .ready → s.tablesBuilt
  diagnostic : s.diagnosticFits
  opened : s.openIncomplete

/-- A program has ended normally (`70` R261): its last command has completed and the phase is READY. -/
def State.endedNormally (s : State) : Prop := s.stream = [] ∧ s.phase = .ready

/-! ## Effects of a command -/

/-- Nothing differs but, perhaps, block registers, point registers, `ACC` and `NODATA`. -/
structure SameControl (s t : State) : Prop where
  cfg : t.cfg = s.cfg
  phase : t.phase = s.phase
  fcause : t.fcause = s.fcause
  fcmd : t.fcmd = s.fcmd
  genr : t.genr = s.genr
  st : t.st = s.st
  ct : t.ct = s.ct
  thr : t.thr = s.thr
  opened : t.opened = s.opened
  port : t.port = s.port
  resetIn : t.resetIn = s.resetIn

/-- The whole difference between two states: register `r` holds `blk r`, point register `k` holds `pt k`,
`ACC` and `NODATA` are as given, and everything else is unchanged. -/
structure Effect (s t : State) (blk : Nat → Option Bits) (pt : Nat → Option Point) (acc : Word) (nodata : Bool) :
    Prop where
  control : SameControl s t
  blks : ∀ r, t.blk r = blk r
  pts : ∀ k, t.pt k = pt k
  acc : t.acc = acc
  nodata : t.nodata = nodata

/-- The command completes with exactly this effect. -/
def Completes (i : Instr) (s : State) (blk : Nat → Option Bits) (pt : Nat → Option Point) (acc : Word)
    (nodata : Bool) : Prop :=
  ∃ t, exec i s = .next t ∧ Effect s t blk pt acc nodata

/-- The state that a fatal error leaves (`60` R226). -/
def fatalState (s : State) (cause : FatalCause) (w : Word) : State :=
  { s with fcause := causeCode cause, fcmd := w, phase := .fatal }

/-- The command raises a fatal error of this cause: three writes, and nothing of the command. -/
def Raises (i : Instr) (s : State) (cause : FatalCause) : Prop := exec i s = .next (fatalState s cause i.word)

/-- The command word of `i` is `op<<56 | ra<<50 | rb<<44 | c<<38 | x<<24 | y<<12 | n` with these fields, all others
and `z` being 0 (`30` R61, R62, R78). -/
def EncodedAs (i : Instr) (op : Nat) (f : Fields) : Prop :=
  i.word.toNat = op * 2 ^ 56 + f.ra.toNat * 2 ^ 50 + f.rb.toNat * 2 ^ 44 + f.c.toNat * 2 ^ 38
    + f.x.toNat * 2 ^ 24 + f.y.toNat * 2 ^ 12 + f.n.toNat

/-- The block registers with register `a` replaced. -/
def withBlk (s : State) (a : Nat) (x : Bits) : Nat → Option Bits := fun r => if r = a then some x else s.blk r

/-- The block registers with `xs` from register `a` on. -/
def withBlks (s : State) (a : Nat) (xs : List Bits) : Nat → Option Bits := fun r =>
  if a ≤ r ∧ r < a + xs.length then xs[r - a]? else s.blk r

/-- The point registers with register `a` replaced. -/
def withPt (s : State) (a : Nat) (t : Point) : Nat → Option Point := fun k => if k = a then some t else s.pt k

/-- The point registers with `ts` from register `a` on. -/
def withPts (s : State) (a : Nat) (ts : List Point) : Nat → Option Point := fun k =>
  if a ≤ k ∧ k < a + ts.length then ts[k - a]? else s.pt k

/-- Registers `base` to `base + xs.length - 1` are allocated and hold `xs`. -/
def HoldsBlks (s : State) (base : Nat) (xs : List Bits) : Prop := ∀ j, j < xs.length → s.blk (base + j) = xs[j]?

/-- Point registers `base` to `base + ts.length - 1` are valid and hold `ts`. -/
def HoldsPts (s : State) (base : Nat) (ts : List Point) : Prop := ∀ j, j < ts.length → s.pt (base + j) = ts[j]?

/-- An array source with a register that holds no block: some element below `count` is unallocated. -/
def MissingBlk (s : State) (base count : Nat) : Prop := ∃ j, j < count ∧ s.blk (base + j) = none

/-- An array source with an invalid point. -/
def MissingPt (s : State) (base count : Nat) : Prop := ∃ j, j < count ∧ s.pt (base + j) = none

/-! ## What the commands may touch -/

/-- The causes that a command can raise after its prologue (`60` R222). -/
def causes : Instr → List FatalCause
  | .init => []
  | .bcreate _ _ => []
  | .bdestroy _ => [.nullref]
  | .bget _ _ => [.nullref, .range]
  | .bset _ _ _ => [.nullref, .range]
  | .bxori _ _ _ => [.nullref, .range]
  | .bcpbit _ _ _ _ => [.nullref, .range]
  | .bflip _ _ => [.nullref, .range]
  | .bcmp _ _ _ _ => [.nullref, .range]
  | .btoint _ => [.nullref]
  | .bfromint _ _ => [.nullref]
  | .bfromstr _ _ => [.nullref, .range]
  | .bdivmod _ _ _ => [.nullref, .range]
  | .bxor _ _ => [.nullref, .range]
  | .bmxor _ _ => [.nullref, .range]
  | .bcopy _ _ _ _ _ => [.nullref, .range]
  | .brechunk _ _ _ _ => [.nullref, .range]
  | .fenc _ _ _ _ => [.badenum, .nullref, .range]
  | .fdec _ _ _ _ => [.badenum, .nullref, .range]
  | .fsynrd _ _ _ => [.badenum, .range]
  | .fgenrd _ _ => [.badenum]
  | .mmod _ _ _ _ => [.badenum, .nullref, .range]
  | .mdem _ _ _ _ => [.badenum, .nullref, .range]
  | .pset _ _ _ => []
  | .pget _ _ => [.nullref]
  | .mtabrd _ _ _ => [.badenum, .range]

/-- The commands that write `ACC` (`10` R24). -/
def writesAcc : Instr → Bool
  | .init => false
  | .bcreate _ _ => false
  | .bdestroy _ => false
  | .bget _ _ => true
  | .bset _ _ _ => false
  | .bxori _ _ _ => false
  | .bcpbit _ _ _ _ => false
  | .bflip _ _ => false
  | .bcmp _ _ _ _ => true
  | .btoint _ => true
  | .bfromint _ _ => false
  | .bfromstr _ _ => false
  | .bdivmod _ _ _ => false
  | .bxor _ _ => false
  | .bmxor _ _ => true
  | .bcopy _ _ _ _ _ => false
  | .brechunk _ _ _ _ => true
  | .fenc _ _ _ _ => true
  | .fdec _ _ _ _ => true
  | .fsynrd _ _ _ => true
  | .fgenrd _ _ => false
  | .mmod _ _ _ _ => true
  | .mdem _ _ _ _ => true
  | .pset _ _ _ => false
  | .pget _ _ => true
  | .mtabrd _ _ _ => false

/-- The commands that write `NODATA` (`10` R25). -/
def writesNodata : Instr → Bool
  | .init => false
  | .bcreate _ _ => false
  | .bdestroy _ => false
  | .bget _ _ => false
  | .bset _ _ _ => false
  | .bxori _ _ _ => false
  | .bcpbit _ _ _ _ => false
  | .bflip _ _ => false
  | .bcmp _ _ _ _ => false
  | .btoint _ => false
  | .bfromint _ _ => false
  | .bfromstr _ _ => false
  | .bdivmod _ _ _ => false
  | .bxor _ _ => false
  | .bmxor _ _ => false
  | .bcopy _ _ _ _ _ => false
  | .brechunk _ _ _ _ => true
  | .fenc _ _ _ _ => true
  | .fdec _ _ _ _ => true
  | .fsynrd _ _ _ => false
  | .fgenrd _ _ => false
  | .mmod _ _ _ _ => true
  | .mdem _ _ _ _ => true
  | .pset _ _ _ => false
  | .pget _ _ => false
  | .mtabrd _ _ _ => false

/-- The commands that create or destroy block registers (`10` R21). -/
def createsOrDestroys : Instr → Bool
  | .init => false
  | .bcreate _ _ => true
  | .bdestroy _ => true
  | .bget _ _ => false
  | .bset _ _ _ => false
  | .bxori _ _ _ => false
  | .bcpbit _ _ _ _ => false
  | .bflip _ _ => false
  | .bcmp _ _ _ _ => false
  | .btoint _ => false
  | .bfromint _ _ => false
  | .bfromstr _ _ => false
  | .bdivmod _ _ _ => true
  | .bxor _ _ => false
  | .bmxor _ _ => false
  | .bcopy _ _ _ _ _ => false
  | .brechunk _ _ _ _ => true
  | .fenc _ _ _ _ => true
  | .fdec _ _ _ _ => true
  | .fsynrd _ _ _ => true
  | .fgenrd _ _ => true
  | .mmod _ _ _ _ => false
  | .mdem _ _ _ _ => true
  | .pset _ _ _ => false
  | .pget _ _ => false
  | .mtabrd _ _ _ => false

/-- The commands that write point registers (`10` R23). -/
def writesPoints : Instr → Bool
  | .init => false
  | .bcreate _ _ => false
  | .bdestroy _ => false
  | .bget _ _ => false
  | .bset _ _ _ => false
  | .bxori _ _ _ => false
  | .bcpbit _ _ _ _ => false
  | .bflip _ _ => false
  | .bcmp _ _ _ _ => false
  | .btoint _ => false
  | .bfromint _ _ => false
  | .bfromstr _ _ => false
  | .bdivmod _ _ _ => false
  | .bxor _ _ => false
  | .bmxor _ _ => false
  | .bcopy _ _ _ _ _ => false
  | .brechunk _ _ _ _ => false
  | .fenc _ _ _ _ => false
  | .fdec _ _ _ _ => false
  | .fsynrd _ _ _ => false
  | .fgenrd _ _ => false
  | .mmod _ _ _ _ => true
  | .mdem _ _ _ _ => false
  | .pset _ _ _ => true
  | .pget _ _ => false
  | .mtabrd _ _ _ => true

end Sys2Proof.Machine
end

