-- ==== Sys2Proof/Certificates/Slice0/Obligations.lean ====
section
/-! DEFINITION. The statements about the model, for the provers. Each says what a rule of spec/ says of the
machine; the terms `Completes`, `Raises`, `Effect` and `EncodedAs` are those of Sys2Proof/Safety.lean, and the
`literal` functions are the spec's loops as Sys2Proof/Machine/Literal.lean writes them. -/

open Sys2Proof Sys2Proof.Machine

/-! ## Encoding -/

/-- Decoding the words of a well-formed command gives the command and leaves the words after it
(`30` R60 to R66, R78). -/
def Obligations.DecodeOfEncodeGivesTheCommand : Prop :=
  ∀ (i : Instr) (rest : List Word), i.wf = true → decode (encode i ++ rest) = .ok (i, rest)

/-- `30` R69: a word is a command iff it matches a row of the opcode table; and the command it decodes to has that
very word as its command word, which is what `FCMD` would record. -/
def Obligations.CommandsAreTheTableRows : Prop :=
  ∀ (w : Word) (payload : List Word), payload.length = payloadWords w →
    ((∃ i, decodeCommand w payload = .ok i) ↔ matchesTable w) ∧
    (∀ i, decodeCommand w payload = .ok i →
      i.wf = true ∧ i.word = w ∧ i.payload.length = payload.length)

/-- Words written out from `95` V-EN1 and V-EN2 decode to the commands they stand for. -/
def Obligations.WrittenOutWordsDecode : Prop :=
  decode [0x0100000000000000] = .ok (.init, []) ∧
  decode [0x100C000000000007] = .ok (.bcreate 3 7, []) ∧
  decode [0x1E04300002005004] = .ok (.bcopy 1 2 3 5 4, []) ∧
  decode [0x1B54850000000000] = .ok (.bdivmod 21 8 20, []) ∧
  decode [0x1D00000000000005, 0x0000000200020003, 0x0001000000000000] = .ok (.bmxor 0 [0, 2, 2, 3, 1], []) ∧
  decode [0x2020010002000000] = .ok (.fenc 8 0 4 2, []) ∧
  decode [0x300100C026000000] = .ok (.mmod 0 16 3 38, []) ∧
  decode [0x320C000000000000, 0x00000000FFFF0000, 0x0000000000002328] = .ok (.pset 3 0xFFFF0000 9000, []) ∧
  decode [0x330C000000001000] = .ok (.pget 3 .Q, []) ∧
  decode [0x340002C005000000] = .ok (.mtabrd 0 11 5, [])

/-- `30` R64: what a decoded command takes from its payload words, element `k` from the lane that the rule names;
bits that hold no element play no part. -/
def Obligations.PayloadLanesAreReadMostSignificantFirst : Prop :=
  ∀ (w : Word) (payload : List Word) (i : Instr), payload.length = payloadWords w →
    decodeCommand w payload = .ok i →
    (∀ ra v, i = .bfromint ra v → payload = [v]) ∧
    (∀ ra a b, i = .pset ra a b → payload = [a, b]) ∧
    (∀ ra chars, i = .bfromstr ra chars → chars.length = (fieldN w).toNat ∧
      ∀ k ch, chars[k]? = some ch →
        ∃ p, payload[k / 8]? = some p ∧ ch = p.extractLsb' (56 - 8 * (k % 8)) 8) ∧
    (∀ ra idxs, i = .bmxor ra idxs → idxs.length = (fieldN w).toNat ∧
      ∀ k ix, idxs[k]? = some ix →
        ∃ p, payload[k / 4]? = some p ∧ ix = p.extractLsb' (48 - 16 * (k % 4)) 16)

/-- `30` R67, `60` R225 step 1: a word that matches no row of the table raises BADENUM before every other check,
in UNINIT and in READY; a scheme identifier outside the command's enumeration raises BADENUM after the phase
check. -/
def Obligations.IllegalWordsRaiseBadenum : Prop :=
  (∀ (s : State) (w : Word) (payload rest : List Word), s.resetIn = false → s.phase ≠ .fatal →
    s.opened ++ s.port = w :: (payload ++ rest) → payload.length = payloadWords w → ¬ matchesTable w →
    step s = .next (fatalState { s with opened := [], port := rest } .badenum w)) ∧
  (∀ (s : State) (ra rb : RegIx) (sch : SchemeId) (x : Num12), s.phase = .ready →
    (4 < sch.toNat → Raises (.fenc ra rb sch x) s .badenum ∧ Raises (.fdec ra rb sch x) s .badenum) ∧
    (sch.toNat < 2 ∨ 4 < sch.toNat → Raises (.fsynrd ra sch x) s .badenum ∧ Raises (.fgenrd ra sch) s .badenum) ∧
    (16 < sch.toNat → Raises (.mmod ra rb sch x) s .badenum ∧ Raises (.mdem ra rb sch x) s .badenum ∧
      Raises (.mtabrd ra sch x) s .badenum))

/-! ## The step -/

/-- When the words presented decode to a command, and neither reset nor FATAL stands in the way, the step is the
command's own meaning with its words taken from the port (`30` R60, `70` R258). -/
def Obligations.StepRunsTheDecodedCommand : Prop :=
  ∀ (s : State) (i : Instr) (rest : List Word), s.resetIn = false → s.phase ≠ .fatal →
    decode (s.opened ++ s.port) = .ok (i, rest) →
    step s = exec i { s with opened := [], port := rest }

/-- `70` R251, R258: with no word the block waits; words that do not complete a command are accepted, the block
waits, and the command then executes as if its words had been presented together. That a waiting step answers the
same state is the model's choice (log 6). -/
def Obligations.PartDeliveryWaitsAndLosesNothing : Prop :=
  ∀ (s : State) (first later : List Word), s.resetIn = false → s.phase ≠ .fatal →
    (s.opened ++ first = [] → step { s with port := first } = .next { s with port := first }) ∧
    (decode (s.opened ++ first) = .error .payloadMissing →
      step { s with port := first } = .next { s with opened := s.opened ++ first, port := [] } ∧
      step { s with opened := s.opened ++ first, port := later } = step { s with port := first ++ later })

/-- `60` R227: in FATAL nothing executes and no word is accepted, unless reset is asserted; the read port still
answers. That a stuck block answers a fault is R227's advice to a model (log 4). -/
def Obligations.FatalExecutesNothing : Prop :=
  ∀ s : State, s.phase = .fatal →
    (∀ i, exec i s = .fault .fatalPhase) ∧ (s.resetIn = false → step s = .fault .fatalPhase) ∧
    s.portReady = false ∧ s.readPort 1 = s.fcause.setWidth 64 ∧ s.readPort 2 = s.fcmd

/-- `70` R250, `10` R36: when the reset input is asserted, in any phase, the next step gives every piece of state
its reset value, a partly delivered command is forgotten, and the next word presented is a command word; without
it no step leaves FATAL. The configuration stays, as `10` R34 says. That a step takes the input between two commands,
that the input is then released, and that the words presented stay on the port over the reset (`t.port = s.port`,
which the spec does not say) are the model's choices (log 7). -/
def Obligations.ResetInputResetsEverything : Prop :=
  (∀ s : State, s.resetIn = true → ∃ t, step s = .next t ∧ t.phase = .uninit ∧
    (∀ r, t.blk r = none) ∧ (∀ k, t.pt k = none) ∧ t.acc = 0 ∧ t.nodata = false ∧ t.fcause = 0 ∧ t.fcmd = 0 ∧
    t.opened = [] ∧ t.port = s.port ∧ t.resetIn = false ∧ t.cfg = s.cfg) ∧
  (∀ s t : State, s.phase = .fatal → s.resetIn = false → step s ≠ .next t)

/-- `10` R36: the values after reset. -/
def Obligations.ResetStateHoldsTheStatedValues : Prop :=
  State.reset.phase = .uninit ∧ (∀ r, State.reset.blk r = none) ∧ (∀ k, State.reset.pt k = none) ∧
  State.reset.acc = 0 ∧ State.reset.nodata = false ∧ State.reset.fcause = 0 ∧ State.reset.fcmd = 0

/-- `10` R30: the four registers of the read port, in every phase; every other address reads as 0, and so does
every address after reset. -/
def Obligations.ReadPortShowsStatusCauseCommandAndAcc : Prop :=
  (∀ s : State,
    (s.readPort 0).getLsbD 0 = decide (s.phase = .ready) ∧
    (s.readPort 0).getLsbD 1 = decide (s.phase = .fatal) ∧
    (s.readPort 0).getLsbD 2 = s.nodata ∧
    (∀ n, 3 ≤ n → (s.readPort 0).getLsbD n = false) ∧
    (s.readPort 1).toNat = s.fcause.toNat ∧ s.readPort 2 = s.fcmd ∧ s.readPort 3 = s.acc ∧
    (∀ a, 4 ≤ a → s.readPort a = 0)) ∧
  (∀ a, State.reset.readPort a = 0)

/-! ## Invariants and rules of the whole machine -/

/-- Every step keeps the invariant: blocks fit MAXLEN (`10` R20), points fit COORD_W (`00` R11), in READY the tables
are those that `INIT` builds (`20` R48), the diagnostic registers name a cause exactly in FATAL (`10` R27, R28), and
an open command is incomplete (`70` R258). -/
def Obligations.StepKeepsTheInvariant : Prop :=
  ∀ s t : State, s.Inv → step s = .next t → t.Inv

/-- The state after reset meets the invariant. -/
def Obligations.ResetMeetsTheInvariant : Prop := State.reset.Inv

/-- `10` R26: the transitions of the phase. -/
def Obligations.PhaseMovesOnlyAsListed : Prop :=
  ∀ s t : State, step s = .next t →
    (s.resetIn = true ∧ t.phase = .uninit) ∨
    (s.resetIn = false ∧ s.phase ≠ .fatal ∧
      (t.phase = s.phase ∨
       (s.phase = .uninit ∧ t.phase = .ready ∧ ∃ rest, decode (s.opened ++ s.port) = .ok (.init, rest)) ∨
       (t.phase = .fatal ∧ ∃ cause, t.fcause = causeCode cause)))

/-- `60` R221, R222, R226: the cause codes; a command that ends in FATAL has written the cause, its own command word
and the phase, and nothing else; the cause is NULLREF in UNINIT and one of the command's listed causes in READY; the
read port shows it. -/
def Obligations.FatalErrorsArePreciseWithListedCauses : Prop :=
  (causeCode .alloc = 1 ∧ causeCode .badenum = 2 ∧ causeCode .nullref = 3 ∧ causeCode .range = 4) ∧
  ∀ (i : Instr) (s t : State), exec i s = .next t → t.phase = .fatal →
    ∃ cause, t = fatalState s cause i.word ∧
      ((s.phase = .uninit ∧ i ≠ .init ∧ cause = .nullref) ∨ (s.phase = .ready ∧ cause ∈ causes i)) ∧
      (t.readPort 0).getLsbD 1 = true ∧ (t.readPort 1).toNat = (causeCode cause).toNat ∧ t.readPort 2 = i.word

/-- `10` R24, R25: the commands that are not listed leave `ACC`, or `NODATA`, unchanged. -/
def Obligations.OnlyListedCommandsWriteAccAndNodata : Prop :=
  ∀ (i : Instr) (s t : State), exec i s = .next t →
    (writesAcc i = false → t.acc = s.acc) ∧ (writesNodata i = false → t.nodata = s.nodata)

/-- `10` R24, R25: no command reads `ACC` or `NODATA`: from a state that differs in them alone, every command ends
in the same state but for them, and what it writes to them is the same. -/
def Obligations.AccAndNodataAreNeverRead : Prop :=
  ∀ (i : Instr) (s t : State) (v : Word) (nd : Bool), exec i s = .next t →
    ∃ u, exec i { s with acc := v, nodata := nd } = .next u ∧
      { u with acc := t.acc, nodata := t.nodata } = t ∧
      (u.acc = t.acc ∨ (t.acc = s.acc ∧ u.acc = v)) ∧
      (u.nodata = t.nodata ∨ (t.nodata = s.nodata ∧ u.nodata = nd))

/-- `10` R21, R23: allocation and length of a block register change only by the commands that create or destroy;
point registers are written only by `MMOD`, `PSET` and `MTABRD`, and no command invalidates one. -/
def Obligations.RegistersChangeLifeOnlyByTheirCommands : Prop :=
  ∀ (i : Instr) (s t : State), exec i s = .next t →
    (createsOrDestroys i = false → ∀ r, (t.blk r).map List.length = (s.blk r).map List.length) ∧
    (writesPoints i = false → ∀ k, t.pt k = s.pt k) ∧
    (∀ k, s.pt k ≠ none → t.pt k ≠ none)

/-- `20` R48, `10` R34: no step changes the configuration, and but for reset the tables change only when `INIT`
executes in UNINIT. -/
def Obligations.OnlyInitWritesTheTables : Prop :=
  ∀ s t : State, step s = .next t →
    t.cfg = s.cfg ∧
    (s.resetIn = false →
      (t.genr = s.genr ∧ t.st = s.st ∧ t.ct = s.ct ∧ t.thr = s.thr) ∨
      (s.phase = .uninit ∧ t.phase = .ready ∧ ∃ rest, decode (s.opened ++ s.port) = .ok (.init, rest)))

/-! ## The commands, one statement each: encoding, prologue, every fatal error, and the whole effect -/

/-- `41` R140. -/
def Obligations.InitBuildsTheTablesOnce : Prop :=
  ∀ s : State,
    EncodedAs .init 0x01 {} ∧
    (s.phase = .uninit → ∃ t, exec .init s = .next t ∧ t.phase = .ready ∧
      t.genr = s.cfg.val.gen ∧ (∀ f, t.st.get f = synTable s.cfg.val f) ∧
      (∀ m : ModScheme, t.ct.get m.id = constellation s.cfg.val m) ∧
      (∀ m : ModScheme, t.thr.get m.id = threshold s.cfg.val m) ∧
      (∀ r, t.blk r = s.blk r) ∧ (∀ k, t.pt k = s.pt k) ∧ t.acc = s.acc ∧ t.nodata = s.nodata ∧
      t.fcause = s.fcause ∧ t.fcmd = s.fcmd ∧ t.cfg = s.cfg ∧ t.opened = s.opened ∧ t.port = s.port ∧
      t.resetIn = s.resetIn) ∧
    (s.phase = .ready → exec .init s = .next s)

/-- `40` R103. With a 12-bit length the ALLOC check cannot fail. -/
def Obligations.BcreateCreatesZeroBits : Prop :=
  ∀ (ra : RegIx) (n : Num12) (s : State),
    EncodedAs (.bcreate ra n) 0x10 { ra := ra, n := n } ∧
    (s.phase = .uninit → Raises (.bcreate ra n) s .nullref) ∧
    (s.phase = .ready →
      Completes (.bcreate ra n) s (withBlk s ra.toNat (List.replicate n.toNat false)) s.pt s.acc s.nodata)

/-- `40` R104. -/
def Obligations.BdestroyReleasesTheRegister : Prop :=
  ∀ (ra : RegIx) (s : State),
    EncodedAs (.bdestroy ra) 0x11 { ra := ra } ∧
    (s.phase = .uninit → Raises (.bdestroy ra) s .nullref) ∧
    (s.phase = .ready →
      (s.blk ra.toNat = none → Raises (.bdestroy ra) s .nullref) ∧
      (∀ a, s.blk ra.toNat = some a →
        Completes (.bdestroy ra) s (fun r => if r = ra.toNat then none else s.blk r) s.pt s.acc s.nodata))

/-- `40` R105. -/
def Obligations.BgetReadsOneBit : Prop :=
  ∀ (ra : RegIx) (x : Num12) (s : State),
    EncodedAs (.bget ra x) 0x12 { ra := ra, x := x } ∧
    (s.phase = .uninit → Raises (.bget ra x) s .nullref) ∧
    (s.phase = .ready →
      (s.blk ra.toNat = none → Raises (.bget ra x) s .nullref) ∧
      (∀ a, s.blk ra.toNat = some a →
        (a.length ≤ x.toNat → Raises (.bget ra x) s .range) ∧
        (∀ v, a[x.toNat]? = some v → Completes (.bget ra x) s s.blk s.pt (if v then 1 else 0) s.nodata)))

/-- `40` R106. -/
def Obligations.BsetWritesOneBit : Prop :=
  ∀ (ra : RegIx) (x : Num12) (v : Bool) (s : State),
    EncodedAs (.bset ra x v) 0x13 { ra := ra, x := x, y := if v then 1 else 0 } ∧
    (s.phase = .uninit → Raises (.bset ra x v) s .nullref) ∧
    (s.phase = .ready →
      (s.blk ra.toNat = none → Raises (.bset ra x v) s .nullref) ∧
      (∀ a, s.blk ra.toNat = some a →
        (a.length ≤ x.toNat → Raises (.bset ra x v) s .range) ∧
        (x.toNat < a.length →
          Completes (.bset ra x v) s (withBlk s ra.toNat (a.set x.toNat v)) s.pt s.acc s.nodata)))

/-- `40` R107. -/
def Obligations.BxoriXorsOneBit : Prop :=
  ∀ (ra : RegIx) (x : Num12) (v : Bool) (s : State),
    EncodedAs (.bxori ra x v) 0x14 { ra := ra, x := x, y := if v then 1 else 0 } ∧
    (s.phase = .uninit → Raises (.bxori ra x v) s .nullref) ∧
    (s.phase = .ready →
      (s.blk ra.toNat = none → Raises (.bxori ra x v) s .nullref) ∧
      (∀ a, s.blk ra.toNat = some a →
        (a.length ≤ x.toNat → Raises (.bxori ra x v) s .range) ∧
        (∀ old, a[x.toNat]? = some old →
          Completes (.bxori ra x v) s (withBlk s ra.toNat (a.set x.toNat (old ^^ v))) s.pt s.acc s.nodata)))

/-- `40` R108. -/
def Obligations.BcpbitCopiesOneBit : Prop :=
  ∀ (ra rb : RegIx) (x y : Num12) (s : State),
    EncodedAs (.bcpbit ra x rb y) 0x15 { ra := ra, rb := rb, x := x, y := y } ∧
    (s.phase = .uninit → Raises (.bcpbit ra x rb y) s .nullref) ∧
    (s.phase = .ready →
      (s.blk ra.toNat = none ∨ s.blk rb.toNat = none → Raises (.bcpbit ra x rb y) s .nullref) ∧
      (∀ a b, s.blk ra.toNat = some a → s.blk rb.toNat = some b →
        (a.length ≤ x.toNat ∨ b.length ≤ y.toNat → Raises (.bcpbit ra x rb y) s .range) ∧
        (∀ v, x.toNat < a.length → b[y.toNat]? = some v →
          Completes (.bcpbit ra x rb y) s (withBlk s ra.toNat (a.set x.toNat v)) s.pt s.acc s.nodata)))

/-- `40` R109. -/
def Obligations.BflipInvertsOneBit : Prop :=
  ∀ (ra : RegIx) (x : Num12) (s : State),
    EncodedAs (.bflip ra x) 0x16 { ra := ra, x := x } ∧
    (s.phase = .uninit → Raises (.bflip ra x) s .nullref) ∧
    (s.phase = .ready →
      (s.blk ra.toNat = none → Raises (.bflip ra x) s .nullref) ∧
      (∀ a, s.blk ra.toNat = some a →
        (a.length ≤ x.toNat → Raises (.bflip ra x) s .range) ∧
        (∀ old, a[x.toNat]? = some old →
          Completes (.bflip ra x) s (withBlk s ra.toNat (a.set x.toNat (old ^^ true))) s.pt s.acc s.nodata)))

/-- `40` R110. -/
def Obligations.BcmpComparesTwoBits : Prop :=
  ∀ (ra rb : RegIx) (x y : Num12) (s : State),
    EncodedAs (.bcmp ra x rb y) 0x17 { ra := ra, rb := rb, x := x, y := y } ∧
    (s.phase = .uninit → Raises (.bcmp ra x rb y) s .nullref) ∧
    (s.phase = .ready →
      (s.blk ra.toNat = none ∨ s.blk rb.toNat = none → Raises (.bcmp ra x rb y) s .nullref) ∧
      (∀ a b, s.blk ra.toNat = some a → s.blk rb.toNat = some b →
        (a.length ≤ x.toNat ∨ b.length ≤ y.toNat → Raises (.bcmp ra x rb y) s .range) ∧
        (∀ u v, a[x.toNat]? = some u → b[y.toNat]? = some v →
          Completes (.bcmp ra x rb y) s s.blk s.pt (if u = v then 1 else 0) s.nodata)))

/-- `40` R111: the block as an integer, bit 0 most significant (R100), modulo 2^64. -/
def Obligations.BtointReadsTheInteger : Prop :=
  ∀ (ra : RegIx) (s : State),
    EncodedAs (.btoint ra) 0x18 { ra := ra } ∧
    (s.phase = .uninit → Raises (.btoint ra) s .nullref) ∧
    (s.phase = .ready →
      (s.blk ra.toNat = none → Raises (.btoint ra) s .nullref) ∧
      (∀ a, s.blk ra.toNat = some a →
        Completes (.btoint ra) s s.blk s.pt
          (BitVec.ofNat 64 (∑ i ∈ Finset.range a.length, (a.getD i false).toNat * 2 ^ (a.length - 1 - i)))
          s.nodata))

/-- `40` R112: all bits are written from the value, truncated or zero-extended (R101). -/
def Obligations.BfromintWritesTheInteger : Prop :=
  ∀ (ra : RegIx) (value : Word) (s : State),
    EncodedAs (.bfromint ra value) 0x19 { ra := ra } ∧ (Instr.bfromint ra value).payload = [value] ∧
    (s.phase = .uninit → Raises (.bfromint ra value) s .nullref) ∧
    (s.phase = .ready →
      (s.blk ra.toNat = none → Raises (.bfromint ra value) s .nullref) ∧
      (∀ a, s.blk ra.toNat = some a →
        Completes (.bfromint ra value) s
          (withBlk s ra.toNat ((List.range a.length).map fun i => value.toNat.testBit (a.length - 1 - i)))
          s.pt s.acc s.nodata))

/-- `40` R113: a bit is 1 iff it has a character and that character is `'1'`. -/
def Obligations.BfromstrWritesTheString : Prop :=
  ∀ (ra : RegIx) (chars : List Byte) (s : State),
    (chars.length ≤ 4095 →
      EncodedAs (.bfromstr ra chars) 0x1A { ra := ra, n := BitVec.ofNat 12 chars.length } ∧
      (Instr.bfromstr ra chars).payload.length = (chars.length + 7) / 8) ∧
    (s.phase = .uninit → Raises (.bfromstr ra chars) s .nullref) ∧
    (s.phase = .ready →
      (s.blk ra.toNat = none → Raises (.bfromstr ra chars) s .nullref) ∧
      (∀ a, s.blk ra.toNat = some a →
        (a.length < chars.length → Raises (.bfromstr ra chars) s .range) ∧
        (chars.length ≤ a.length →
          Completes (.bfromstr ra chars) s
            (withBlk s ra.toNat ((List.range a.length).map fun i => decide (chars[i]? = some 0x31#8)))
            s.pt s.acc s.nodata)))

/-- `40` R114, R102: the remainder of the long division as the rule writes it. -/
def Obligations.BdivmodWritesTheRemainder : Prop :=
  ∀ (ra rb rc : RegIx) (s : State),
    EncodedAs (.bdivmod ra rb rc) 0x1B { ra := ra, rb := rb, c := rc } ∧
    (s.phase = .uninit → Raises (.bdivmod ra rb rc) s .nullref) ∧
    (s.phase = .ready →
      (s.blk rb.toNat = none ∨ s.blk rc.toNat = none → Raises (.bdivmod ra rb rc) s .nullref) ∧
      (∀ d g, s.blk rb.toNat = some d → s.blk rc.toNat = some g →
        (g.length = 0 ∨ d.length < g.length - 1 → Raises (.bdivmod ra rb rc) s .range) ∧
        (0 < g.length → g.length - 1 ≤ d.length →
          Completes (.bdivmod ra rb rc) s (withBlk s ra.toNat (literalRem d g)) s.pt s.acc s.nodata)))

/-- `40` R115. -/
def Obligations.BxorXorsTheBlocks : Prop :=
  ∀ (ra rb : RegIx) (s : State),
    EncodedAs (.bxor ra rb) 0x1C { ra := ra, rb := rb } ∧
    (s.phase = .uninit → Raises (.bxor ra rb) s .nullref) ∧
    (s.phase = .ready →
      (s.blk ra.toNat = none ∨ s.blk rb.toNat = none → Raises (.bxor ra rb) s .nullref) ∧
      (∀ a b, s.blk ra.toNat = some a → s.blk rb.toNat = some b →
        (a.length ≠ b.length → Raises (.bxor ra rb) s .range) ∧
        (a.length = b.length →
          Completes (.bxor ra rb) s
            (withBlk s ra.toNat ((List.range a.length).map fun i => a.getD i false ^^ b.getD i false))
            s.pt s.acc s.nodata)))

/-- `40` R116: the parity of the bits at the listed positions, an index listed twice counting twice. -/
def Obligations.BmxorXorsTheListedBits : Prop :=
  ∀ (ra : RegIx) (idxs : List Lane) (s : State),
    (idxs.length ≤ 4095 →
      EncodedAs (.bmxor ra idxs) 0x1D { ra := ra, n := BitVec.ofNat 12 idxs.length } ∧
      (Instr.bmxor ra idxs).payload.length = (idxs.length + 3) / 4) ∧
    (s.phase = .uninit → Raises (.bmxor ra idxs) s .nullref) ∧
    (s.phase = .ready →
      (s.blk ra.toNat = none → Raises (.bmxor ra idxs) s .nullref) ∧
      (∀ a, s.blk ra.toNat = some a →
        ((∃ k ∈ idxs, a.length ≤ k.toNat) → Raises (.bmxor ra idxs) s .range) ∧
        ((∀ k ∈ idxs, k.toNat < a.length) →
          Completes (.bmxor ra idxs) s s.blk s.pt
            (BitVec.ofNat 64 ((idxs.map fun k => (a.getD k.toNat false).toNat).sum % 2)) s.nodata)))

/-- `40` R117: the old source bits, copied to the destination range; every other bit stays. -/
def Obligations.BcopyCopiesTheRange : Prop :=
  ∀ (ra rb : RegIx) (x y n : Num12) (s : State),
    EncodedAs (.bcopy ra x rb y n) 0x1E { ra := ra, rb := rb, x := x, y := y, n := n } ∧
    (s.phase = .uninit → Raises (.bcopy ra x rb y n) s .nullref) ∧
    (s.phase = .ready →
      (s.blk ra.toNat = none ∨ s.blk rb.toNat = none → Raises (.bcopy ra x rb y n) s .nullref) ∧
      (∀ a b, s.blk ra.toNat = some a → s.blk rb.toNat = some b →
        (a.length < x.toNat + n.toNat ∨ b.length < y.toNat + n.toNat → Raises (.bcopy ra x rb y n) s .range) ∧
        (x.toNat + n.toNat ≤ a.length → y.toNat + n.toNat ≤ b.length →
          Completes (.bcopy ra x rb y n) s
            (withBlk s ra.toNat ((List.range a.length).map fun t =>
              if x.toNat ≤ t ∧ t < x.toNat + n.toNat then b.getD (y.toNat + (t - x.toNat)) false
              else a.getD t false))
            s.pt s.acc s.nodata)))

/-- `40` R118, R119: the checks in their order, then the slices of the concatenated stream, bit by bit. -/
def Obligations.BrechunkCutsTheStream : Prop :=
  ∀ (ra rb : RegIx) (x n : Num12) (s : State),
    EncodedAs (.brechunk ra rb x n) 0x1F { ra := ra, rb := rb, x := x, n := n } ∧
    (s.phase = .uninit → Raises (.brechunk ra rb x n) s .nullref) ∧
    (s.phase = .ready →
      (64 < rb.toNat + x.toNat → Raises (.brechunk ra rb x n) s .range) ∧
      (rb.toNat + x.toNat ≤ 64 →
        (MissingBlk s rb.toNat x.toNat → Raises (.brechunk ra rb x n) s .nullref) ∧
        (∀ xs, xs.length = x.toNat → HoldsBlks s rb.toNat xs →
          ((∃ u ∈ xs, ∃ v ∈ xs, u.length ≠ v.length) → Raises (.brechunk ra rb x n) s .range) ∧
          ((∀ u ∈ xs, ∀ v ∈ xs, u.length = v.length) →
            (n = 0 → Raises (.brechunk ra rb x n) s .range) ∧
            (n ≠ 0 →
              (64 < ra.toNat + (literalRechunk xs n.toNat).length → Raises (.brechunk ra rb x n) s .range) ∧
              (ra.toNat + (literalRechunk xs n.toNat).length ≤ 64 →
                Completes (.brechunk ra rb x n) s (withBlks s ra.toNat (literalRechunk xs n.toNat)) s.pt
                  (BitVec.ofNat 64 (literalRechunk xs n.toNat).length)
                  ((literalRechunk xs n.toNat).length == 0)))))))

/-- `41` R150. -/
def Obligations.FencEncodesEveryBlock : Prop :=
  ∀ (ra rb : RegIx) (sch : SchemeId) (x : Num12) (s : State),
    EncodedAs (.fenc ra rb sch x) 0x20 { ra := ra, rb := rb, c := sch, x := x } ∧
    (s.phase = .uninit → Raises (.fenc ra rb sch x) s .nullref) ∧
    (s.phase = .ready →
      (4 < sch.toNat → Raises (.fenc ra rb sch x) s .badenum) ∧
      (∀ f, FecScheme.ofId sch = some f →
        (64 < rb.toNat + x.toNat → Raises (.fenc ra rb sch x) s .range) ∧
        (rb.toNat + x.toNat ≤ 64 →
          (MissingBlk s rb.toNat x.toNat → Raises (.fenc ra rb sch x) s .nullref) ∧
          (∀ xs, xs.length = x.toNat → HoldsBlks s rb.toNat xs →
            ((∃ k, f.encodeSize = some k ∧ ∃ u ∈ xs, u.length ≠ k) → Raises (.fenc ra rb sch x) s .range) ∧
            ((∀ k, f.encodeSize = some k → ∀ u ∈ xs, u.length = k) →
              (64 < ra.toNat + x.toNat → Raises (.fenc ra rb sch x) s .range) ∧
              (ra.toNat + x.toNat ≤ 64 →
                Completes (.fenc ra rb sch x) s
                  (withBlks s ra.toNat (xs.map (fecEncode s.cfg.val.hamEnc s.genr f))) s.pt
                  (BitVec.ofNat 64 x.toNat) (x.toNat == 0)))))))

/-- `41` R152, R153: the decoded blocks; no content of a block raises anything. -/
def Obligations.FdecDecodesEveryBlock : Prop :=
  ∀ (ra rb : RegIx) (sch : SchemeId) (x : Num12) (s : State),
    EncodedAs (.fdec ra rb sch x) 0x21 { ra := ra, rb := rb, c := sch, x := x } ∧
    (s.phase = .uninit → Raises (.fdec ra rb sch x) s .nullref) ∧
    (s.phase = .ready →
      (4 < sch.toNat → Raises (.fdec ra rb sch x) s .badenum) ∧
      (∀ f, FecScheme.ofId sch = some f →
        (64 < rb.toNat + x.toNat → Raises (.fdec ra rb sch x) s .range) ∧
        (rb.toNat + x.toNat ≤ 64 →
          (MissingBlk s rb.toNat x.toNat → Raises (.fdec ra rb sch x) s .nullref) ∧
          (∀ xs, xs.length = x.toNat → HoldsBlks s rb.toNat xs →
            ((∃ k, f.decodeSize = some k ∧ ∃ u ∈ xs, u.length ≠ k) → Raises (.fdec ra rb sch x) s .range) ∧
            ((∀ k, f.decodeSize = some k → ∀ u ∈ xs, u.length = k) →
              (64 < ra.toNat + x.toNat → Raises (.fdec ra rb sch x) s .range) ∧
              (ra.toNat + x.toNat ≤ 64 →
                Completes (.fdec ra rb sch x) s
                  (withBlks s ra.toNat (xs.map (fecDecode s.cfg.val.hamSyn s.genr s.st f))) s.pt
                  (BitVec.ofNat 64 x.toNat) (x.toNat == 0)))))))

/-- `41` R154, for every entry the table holds. -/
def Obligations.FsynrdReadsATableEntry : Prop :=
  ∀ (ra : RegIx) (sch : SchemeId) (x : Num12) (s : State),
    EncodedAs (.fsynrd ra sch x) 0x22 { ra := ra, c := sch, x := x } ∧
    (s.phase = .uninit → Raises (.fsynrd ra sch x) s .nullref) ∧
    (s.phase = .ready →
      (sch.toNat < 2 ∨ 4 < sch.toNat → Raises (.fsynrd ra sch x) s .badenum) ∧
      (∀ f, CrcScheme.ofId sch = some f →
        (2 ^ f.parityBits ≤ x.toNat → Raises (.fsynrd ra sch x) s .range) ∧
        (∀ e, x.toNat < 2 ^ f.parityBits → (s.st.get f)[x.toNat]? = some e →
          Completes (.fsynrd ra sch x) s (withBlk s ra.toNat e.pat) s.pt (if e.present then 1 else 0) s.nodata)))

/-- `41` R155. -/
def Obligations.FgenrdReadsAGenerator : Prop :=
  ∀ (ra : RegIx) (sch : SchemeId) (s : State),
    EncodedAs (.fgenrd ra sch) 0x23 { ra := ra, c := sch } ∧
    (s.phase = .uninit → Raises (.fgenrd ra sch) s .nullref) ∧
    (s.phase = .ready →
      (sch.toNat < 2 ∨ 4 < sch.toNat → Raises (.fgenrd ra sch) s .badenum) ∧
      (∀ f, CrcScheme.ofId sch = some f →
        Completes (.fgenrd ra sch) s (withBlk s ra.toNat (s.genr.get f)) s.pt s.acc s.nodata))

/-- `42` R194, for symbol codewords that the table holds. -/
def Obligations.MmodLooksUpEveryPoint : Prop :=
  ∀ (ra rb : RegIx) (sch : SchemeId) (x : Num12) (s : State),
    EncodedAs (.mmod ra rb sch x) 0x30 { ra := ra, rb := rb, c := sch, x := x } ∧
    (s.phase = .uninit → Raises (.mmod ra rb sch x) s .nullref) ∧
    (s.phase = .ready →
      (16 < sch.toNat → Raises (.mmod ra rb sch x) s .badenum) ∧
      (∀ m, ModScheme.ofId sch = some m →
        (64 < rb.toNat + x.toNat → Raises (.mmod ra rb sch x) s .range) ∧
        (rb.toNat + x.toNat ≤ 64 →
          (MissingBlk s rb.toNat x.toNat → Raises (.mmod ra rb sch x) s .nullref) ∧
          (∀ xs, xs.length = x.toNat → HoldsBlks s rb.toNat xs →
            ((∃ u ∈ xs, u.length ≠ m.bits) → Raises (.mmod ra rb sch x) s .range) ∧
            ((∀ u ∈ xs, u.length = m.bits) →
              (64 < ra.toNat + x.toNat → Raises (.mmod ra rb sch x) s .range) ∧
              (∀ ts : List Point, ra.toNat + x.toNat ≤ 64 → ts.length = xs.length →
                (∀ (j : Nat) (u : Bits), xs[j]? = some u → ts[j]? = (s.ct.get m.id)[toInteger u]?) →
                Completes (.mmod ra rb sch x) s s.blk (withPts s ra.toNat ts) (BitVec.ofNat 64 x.toNat)
                  (x.toNat == 0)))))))

/-- `42` R196: each result spells, big-endian, the codeword that the search of R195 gives. -/
def Obligations.MdemSpellsEveryCodeword : Prop :=
  ∀ (ra rb : RegIx) (sch : SchemeId) (x : Num12) (s : State),
    EncodedAs (.mdem ra rb sch x) 0x31 { ra := ra, rb := rb, c := sch, x := x } ∧
    (s.phase = .uninit → Raises (.mdem ra rb sch x) s .nullref) ∧
    (s.phase = .ready →
      (16 < sch.toNat → Raises (.mdem ra rb sch x) s .badenum) ∧
      (∀ m, ModScheme.ofId sch = some m →
        (64 < rb.toNat + x.toNat → Raises (.mdem ra rb sch x) s .range) ∧
        (rb.toNat + x.toNat ≤ 64 →
          (MissingPt s rb.toNat x.toNat → Raises (.mdem ra rb sch x) s .nullref) ∧
          (∀ ts, ts.length = x.toNat → HoldsPts s rb.toNat ts →
            (64 < ra.toNat + x.toNat → Raises (.mdem ra rb sch x) s .range) ∧
            (ra.toNat + x.toNat ≤ 64 →
              Completes (.mdem ra rb sch x) s
                (withBlks s ra.toNat (ts.map fun p => (List.range m.bits).map fun i =>
                  (demod (s.thr.get m.id) (s.ct.get m.id) p).testBit (m.bits - 1 - i)))
                s.pt (BitVec.ofNat 64 x.toNat) (x.toNat == 0))))))

/-- `42` R198: the low COORD_W bits of each payload word, sign-extended. -/
def Obligations.PsetWritesAPoint : Prop :=
  ∀ (ra : RegIx) (i q : Word) (s : State),
    EncodedAs (.pset ra i q) 0x32 { ra := ra } ∧ (Instr.pset ra i q).payload = [i, q] ∧
    (s.phase = .uninit → Raises (.pset ra i q) s .nullref) ∧
    (s.phase = .ready →
      Completes (.pset ra i q) s s.blk
        (withPt s ra.toNat
          { I := literalSext s.cfg.val.coordW i.toNat, Q := literalSext s.cfg.val.coordW q.toNat })
        s.acc s.nodata)

/-- `42` R199. -/
def Obligations.PgetReadsACoordinate : Prop :=
  ∀ (ra : RegIx) (y : Comp) (s : State),
    EncodedAs (.pget ra y) 0x33 { ra := ra, y := if y = .I then 0 else 1 } ∧
    (s.phase = .uninit → Raises (.pget ra y) s .nullref) ∧
    (s.phase = .ready →
      (s.pt ra.toNat = none → Raises (.pget ra y) s .nullref) ∧
      (∀ p, s.pt ra.toNat = some p →
        Completes (.pget ra y) s s.blk s.pt
          (BitVec.ofNat 64 ((if y = .I then p.I else p.Q) % 2 ^ s.cfg.val.coordW).toNat) s.nodata))

/-- `42` R200, for every entry the table holds. -/
def Obligations.MtabrdReadsATableEntry : Prop :=
  ∀ (ra : RegIx) (sch : SchemeId) (x : Num12) (s : State),
    EncodedAs (.mtabrd ra sch x) 0x34 { ra := ra, c := sch, x := x } ∧
    (s.phase = .uninit → Raises (.mtabrd ra sch x) s .nullref) ∧
    (s.phase = .ready →
      (16 < sch.toNat → Raises (.mtabrd ra sch x) s .badenum) ∧
      (∀ m, ModScheme.ofId sch = some m →
        (2 ^ m.bits ≤ x.toNat → Raises (.mtabrd ra sch x) s .range) ∧
        (∀ p, x.toNat < 2 ^ m.bits → (s.ct.get m.id)[x.toNat]? = some p →
          Completes (.mtabrd ra sch x) s s.blk (withPt s ra.toNat p) s.acc s.nodata)))

/-! ## The pure functions and their laws -/

/-- `40` R100, R101. -/
def Obligations.IntegersHaveBitZeroMostSignificant : Prop :=
  (∀ x : Bits,
    toInteger x = ∑ i ∈ Finset.range x.length, (x.getD i false).toNat * 2 ^ (x.length - 1 - i) ∧
    toInteger x < 2 ^ x.length ∧ fromInteger x.length (toInteger x) = x) ∧
  (∀ len v : Nat,
    fromInteger len v = (List.range len).map (fun i => v.testBit (len - 1 - i)) ∧
    fromInteger len v = fromInteger len (v % 2 ^ len) ∧
    (v < 2 ^ len → toInteger (fromInteger len v) = v))

/-- `40` R102: the machine's division, which drops each visited bit, gives what the loop of the rule gives, for
every divisor, with a first bit 0 too. -/
def Obligations.RemainderIsTheLongDivisionLoop : Prop :=
  ∀ d g : Bits, 1 ≤ g.length → g.length - 1 ≤ d.length →
    gf2Rem d g = literalRem d g ∧ (gf2Rem d g).length = g.length - 1

/-- `40` R102: when the divisor's first bit is 1 the result is the remainder of the polynomials over GF(2), bit 0
being the coefficient of the highest degree. -/
def Obligations.RemainderIsThePolynomialRemainder : Prop :=
  ∀ d g : Bits, g.head? = some true → g.length - 1 ≤ d.length →
    let poly : Bits → Polynomial (ZMod 2) := fun x =>
      ∑ i ∈ Finset.range x.length, if x.getD i false then Polynomial.X ^ (x.length - 1 - i) else 0
    poly (gf2Rem d g) = poly d %ₘ poly g

/-- `41` R147, R151: encoding and decoding of one block under each scheme, parities being sums modulo 2. -/
def Obligations.CodecFollowsTheSchemes : Prop :=
  let parity : Bits → List Nat → Bool := fun x ps => (ps.map fun p => (x.getD p false).toNat).sum % 2 == 1
  (∀ (enc : HamSets) (genr : PerCrc Bits) (d : Bits),
    fecEncode enc genr .noCode d = d ∧
    fecEncode enc genr .hamming74 d = d ++ [parity d enc.s0, parity d enc.s1, parity d enc.s2] ∧
    ∀ f, (genr.get f).length = f.parityBits + 1 → d.length = f.dataBits →
      fecEncode enc genr (.crc f) d
        = d ++ literalRem (d ++ List.replicate f.parityBits false) (genr.get f) ∧
      (fecEncode enc genr (.crc f) d).length = f.codeBits) ∧
  (∀ (syn : HamSets) (genr : PerCrc Bits) (st : PerCrc (List SynEntry)) (w : Bits),
    fecDecode syn genr st .noCode w = w ∧
    (∀ v, v = 4 * (parity w syn.s0).toNat + 2 * (parity w syn.s1).toNat + (parity w syn.s2).toNat →
      (v = 0 → fecDecode syn genr st .hamming74 w = w.take 4) ∧
      (∀ b, v ≠ 0 → w[v - 1]? = some b →
        fecDecode syn genr st .hamming74 w = (w.set (v - 1) (b ^^ true)).take 4)) ∧
    ∀ f v, (genr.get f).length = f.parityBits + 1 → w.length = f.codeBits →
      v = toInteger (literalRem w (genr.get f)) →
      (v = 0 → fecDecode syn genr st (.crc f) w = w.take f.dataBits) ∧
      (∀ e, v ≠ 0 → (st.get f)[v]? = some e →
        fecDecode syn genr st (.crc f) w
          = ((if e.present then List.zipWith (fun a b => a ^^ b) w e.pat else w).take f.dataBits)))

/-- `41` R156: encoding blocks and decoding the result gives the blocks back, for all five schemes, every legal
configuration and every count, the tables being those that `INIT` builds. -/
def Obligations.EncodeThenDecodeRestoresBlocks : Prop :=
  ∀ (ra rb rc : RegIx) (sch : SchemeId) (f : FecScheme) (x : Num12) (s : State) (xs : List Bits),
    s.phase = .ready → s.tablesBuilt → FecScheme.ofId sch = some f →
    ra.toNat + x.toNat ≤ 64 → rb.toNat + x.toNat ≤ 64 → rc.toNat + x.toNat ≤ 64 →
    xs.length = x.toNat → HoldsBlks s rb.toNat xs → (∀ k, f.encodeSize = some k → ∀ u ∈ xs, u.length = k) →
    ∃ t u, exec (.fenc ra rb sch x) s = .next t ∧ exec (.fdec rc ra sch x) t = .next u ∧ HoldsBlks u rc.toNat xs

/-- `41` R157: every single flipped bit of a Hamming codeword is corrected, for all data words, all seven positions
and every legal choice of the subsets. -/
def Obligations.HammingCorrectsEverySingleFlip : Prop :=
  ∀ (ra rb rc : RegIx) (p : Num12) (s : State) (d : Bits),
    s.phase = .ready → s.blk rb.toNat = some d → d.length = 4 → p.toNat < 7 →
    ∃ t u v, exec (.fenc ra rb 1 1) s = .next t ∧ exec (.bflip ra p) t = .next u ∧
      exec (.fdec rc ra 1 1) u = .next v ∧ v.blk rc.toNat = some d

/-- `41` R148: the syndrome tables are what the rule's descending loop over every integer leaves, for every legal
configuration. -/
def Obligations.SyndromeTableIsTheDescendingLoop : Prop :=
  ∀ (c : LegalConfig) (f : CrcScheme),
    synTable c.val f = literalSyn f.codeBits f.parityBits (radius c.val f) (c.val.gen.get f)

/-- `41` R149: a slot is present iff some pattern within the radius maps to it, and then holds the smallest one. -/
def Obligations.SmallestPatternWinsTheSlot : Prop :=
  ∀ (c : LegalConfig) (f : CrcScheme) (v : Nat), v < 2 ^ f.parityBits →
    let hits : Set Nat := fun e => 1 ≤ e ∧ e < 2 ^ f.codeBits ∧ popcount f.codeBits e ≤ radius c.val f ∧
      toInteger (gf2Rem (fromInteger f.codeBits e) (c.val.gen.get f)) = v
    ∃ slot : SynEntry, (synTable c.val f)[v]? = some slot ∧
      (slot.present = true ↔ hits.Nonempty) ∧
      (∀ e, IsLeast hits e → slot.pat = fromInteger f.codeBits e) ∧
      (slot.present = false → slot.pat = List.replicate f.codeBits false)

/-- `40` R119, R121: re-chunking keeps every bit in order and pads with zeros to the next multiple of the target;
re-chunking twice gives the stream of re-chunking once, up to trailing zeros. -/
def Obligations.RechunkingIsLosslessAndAssociative : Prop :=
  (∀ (blocks : List Bits) (target : Nat), 1 ≤ target →
    rechunk blocks target = literalRechunk blocks target ∧
    (∀ y ∈ rechunk blocks target, y.length = target) ∧
    ∃ pad, pad < target ∧ (rechunk blocks target).flatten = blocks.flatten ++ List.replicate pad false) ∧
  (∀ (blocks : List Bits) (s1 s2 : Nat), 1 ≤ s1 → 1 ≤ s2 →
    ∃ pad, (rechunk (rechunk blocks s1) s2).flatten = (rechunk blocks s2).flatten ++ List.replicate pad false)

/-- `42` R184, R189, R192 (a): each constellation table is what the rule's loop writes, and has `2^bits` entries. -/
def Obligations.ConstellationsAreTheConstructionLoops : Prop :=
  ∀ (c : LegalConfig) (m : ModScheme),
    (constellation c.val m).length = 2 ^ m.bits ∧
    match m.shape with
    | .psk ix isGray => constellation c.val m = literalPsk isGray (2 ^ m.bits) (c.val.pskPt.get ix)
    | .qam ix b cross => constellation c.val m = literalQam b cross (c.val.normQ.get ix) (2 ^ m.bits)

/-- `42` R183: neighbours differ in one bit, and on `0 .. 2^b - 1` the function is a bijection. -/
def Obligations.GrayNeighboursDifferInOneBit : Prop :=
  (∀ i : Nat, ∃ k, gray i ^^^ gray (i + 1) = 2 ^ k) ∧
  (∀ b : Nat, Set.BijOn gray {i | i < 2 ^ b} {i | i < 2 ^ b})

/-- `42` R193, R195: the first entry strictly under the threshold is taken; when none is, the first of the entries
at the smallest distance. -/
def Obligations.DemodulationScansInTableOrder : Prop :=
  let d2 : Point → Point → Int := fun p t => (p.I - t.I) ^ 2 + (p.Q - t.Q) ^ 2
  ∀ (thr : Int) (table : List Point) (p : Point) (c : Nat) (t : Point), table[c]? = some t →
    (d2 p t < thr ^ 2 → (∀ j u, j < c → table[j]? = some u → thr ^ 2 ≤ d2 p u) → demod thr table p = c) ∧
    ((∀ u ∈ table, thr ^ 2 ≤ d2 p u) → (∀ u ∈ table, d2 p t ≤ d2 p u) →
      (∀ j u, j < c → table[j]? = some u → d2 p t < d2 p u) → demod thr table p = c)

/-- `42` R197: when the threshold is at most half the smallest distance between two distinct points, the search is
nearest-point search with the first in table order winning a tie. -/
def Obligations.EarlyExitIsExactBelowHalfDistance : Prop :=
  let d2 : Point → Point → Int := fun p t => (p.I - t.I) ^ 2 + (p.Q - t.Q) ^ 2
  ∀ (thr : Int) (table : List Point) (p : Point) (c : Nat) (t : Point), 0 ≤ thr →
    (∀ u ∈ table, ∀ v ∈ table, u ≠ v → (2 * thr) ^ 2 ≤ d2 u v) → table[c]? = some t →
    (∀ u ∈ table, d2 p t ≤ d2 p u) → (∀ j u, j < c → table[j]? = some u → d2 p t < d2 p u) →
    demod thr table p = c

/-- After `42` R201: modulating symbol blocks and demodulating the points gives the blocks back, when the table has its
`2^bits` distinct entries and the threshold is at most the smallest distance between two of them. These premises are
the spec's own inference in R201 (marked there as derived from R195); the sentence of the source that R201 quotes has
no premise, so this statement is weaker than it. -/
def Obligations.ModulateThenDemodulateRestoresSymbols : Prop :=
  let d2 : Point → Point → Int := fun p t => (p.I - t.I) ^ 2 + (p.Q - t.Q) ^ 2
  ∀ (pa rb rc : RegIx) (sch : SchemeId) (m : ModScheme) (x : Num12) (s : State) (xs : List Bits),
    s.phase = .ready → ModScheme.ofId sch = some m →
    (s.ct.get m.id).length = 2 ^ m.bits → (s.ct.get m.id).Nodup → 0 ≤ s.thr.get m.id →
    (∀ u ∈ s.ct.get m.id, ∀ v ∈ s.ct.get m.id, u ≠ v → (s.thr.get m.id) ^ 2 ≤ d2 u v) →
    pa.toNat + x.toNat ≤ 64 → rb.toNat + x.toNat ≤ 64 → rc.toNat + x.toNat ≤ 64 →
    xs.length = x.toNat → HoldsBlks s rb.toNat xs → (∀ u ∈ xs, u.length = m.bits) →
    ∃ t u, exec (.mmod pa rb sch x) s = .next t ∧ exec (.mdem rc pa sch x) t = .next u ∧ HoldsBlks u rc.toNat xs
end

