-- ==== Sys2Proof/Laws/Decode.lean ====
section
/-! SUPPORT. The fields of a packed command word, the opcode map and the packing of payload lists. -/

namespace Sys2Proof

/-! ### Fields of a packed word (R61, R78) -/

theorem packWord_toNat (op : BitVec 8) (f : Fields) :
    (packWord op f).toNat = op.toNat * 2 ^ 56 + f.ra.toNat * 2 ^ 50 + f.rb.toNat * 2 ^ 44 + f.c.toNat * 2 ^ 38
      + f.x.toNat * 2 ^ 24 + f.y.toNat * 2 ^ 12 + f.n.toNat := by
  have h1 := op.isLt
  have h2 := f.ra.isLt
  have h3 := f.rb.isLt
  have h4 := f.c.isLt
  have h5 := f.x.isLt
  have h6 := f.y.isLt
  have h7 := f.n.isLt
  rw [packWord, BitVec.toNat_ofNat, Nat.mod_eq_of_lt]
  omega

/-- A field as a quotient and a remainder of the word's value. -/
theorem extract_toNat (w : Word) (lo len : Nat) : (w.extractLsb' lo len).toNat = w.toNat / 2 ^ lo % 2 ^ len := by
  rw [BitVec.extractLsb'_toNat, Nat.shiftRight_eq_div_pow]

theorem field_packWord_aux (op : BitVec 8) (f : Fields) :
    fieldOp (packWord op f) = op ∧ fieldRa (packWord op f) = f.ra ∧ fieldRb (packWord op f) = f.rb ∧
    fieldC (packWord op f) = f.c ∧ fieldZ (packWord op f) = 0 ∧ fieldX (packWord op f) = f.x ∧
    fieldY (packWord op f) = f.y ∧ fieldN (packWord op f) = f.n := by
  have h1 := op.isLt
  have h2 := f.ra.isLt
  have h3 := f.rb.isLt
  have h4 := f.c.isLt
  have h5 := f.x.isLt
  have h6 := f.y.isLt
  have h7 := f.n.isLt
  refine ⟨?_, ?_, ?_, ?_, ?_, ?_, ?_, ?_⟩ <;> apply BitVec.eq_of_toNat_eq
  · rw [fieldOp, extract_toNat, packWord_toNat]; omega
  · rw [fieldRa, extract_toNat, packWord_toNat]; omega
  · rw [fieldRb, extract_toNat, packWord_toNat]; omega
  · rw [fieldC, extract_toNat, packWord_toNat]; omega
  · rw [fieldZ, extract_toNat, packWord_toNat]; show _ = 0; omega
  · rw [fieldX, extract_toNat, packWord_toNat]; omega
  · rw [fieldY, extract_toNat, packWord_toNat]; omega
  · rw [fieldN, extract_toNat, packWord_toNat]; omega

@[simp] theorem fieldOp_packWord (op : BitVec 8) (f : Fields) : fieldOp (packWord op f) = op :=
  (field_packWord_aux op f).1
@[simp] theorem fieldRa_packWord (op : BitVec 8) (f : Fields) : fieldRa (packWord op f) = f.ra :=
  (field_packWord_aux op f).2.1
@[simp] theorem fieldRb_packWord (op : BitVec 8) (f : Fields) : fieldRb (packWord op f) = f.rb :=
  (field_packWord_aux op f).2.2.1
@[simp] theorem fieldC_packWord (op : BitVec 8) (f : Fields) : fieldC (packWord op f) = f.c :=
  (field_packWord_aux op f).2.2.2.1
@[simp] theorem fieldZ_packWord (op : BitVec 8) (f : Fields) : fieldZ (packWord op f) = 0 :=
  (field_packWord_aux op f).2.2.2.2.1
@[simp] theorem fieldX_packWord (op : BitVec 8) (f : Fields) : fieldX (packWord op f) = f.x :=
  (field_packWord_aux op f).2.2.2.2.2.1
@[simp] theorem fieldY_packWord (op : BitVec 8) (f : Fields) : fieldY (packWord op f) = f.y :=
  (field_packWord_aux op f).2.2.2.2.2.2.1
@[simp] theorem fieldN_packWord (op : BitVec 8) (f : Fields) : fieldN (packWord op f) = f.n :=
  (field_packWord_aux op f).2.2.2.2.2.2.2

/-- The eight fields determine the word (R61: they tile it). -/
theorem word_ext_fields {v w : Word} (hop : fieldOp v = fieldOp w) (hra : fieldRa v = fieldRa w)
    (hrb : fieldRb v = fieldRb w) (hc : fieldC v = fieldC w) (hz : fieldZ v = fieldZ w) (hx : fieldX v = fieldX w)
    (hy : fieldY v = fieldY w) (hn : fieldN v = fieldN w) : v = w := by
  have e1 := congrArg BitVec.toNat hop
  have e2 := congrArg BitVec.toNat hra
  have e3 := congrArg BitVec.toNat hrb
  have e4 := congrArg BitVec.toNat hc
  have e5 := congrArg BitVec.toNat hz
  have e6 := congrArg BitVec.toNat hx
  have e7 := congrArg BitVec.toNat hy
  have e8 := congrArg BitVec.toNat hn
  simp only [fieldOp, fieldRa, fieldRb, fieldC, fieldZ, fieldX, fieldY, fieldN, extract_toNat] at e1 e2 e3 e4 e5 e6 e7 e8
  have hv := v.isLt
  have hw := w.isLt
  apply BitVec.eq_of_toNat_eq
  omega

/-! ### The opcode map (R66) -/

@[simp] theorem ofByte_byte (o : Opcode) : Opcode.ofByte o.byte = some o := by cases o <;> rfl

/-- An assigned byte is the byte of its command: no byte stands for two commands. -/
theorem byte_of_ofByte {b : BitVec 8} {o : Opcode} (h : Opcode.ofByte b = some o) : o.byte = b := by
  have key : ∀ n : Fin 256, (Opcode.ofByte (BitVec.ofFin n)).all (fun o => o.byte == BitVec.ofFin n) = true := by
    decide +kernel
  have := key b.toFin
  rw [show BitVec.ofFin b.toFin = b from rfl, h] at this
  simpa using this

/-! ### Packing of payload lists (R64) -/

@[simp] theorem packBytes_length (k : Nat) : ∀ l : List Byte, (packBytes k l).length = k := by
  induction k with
  | zero => intro l; rfl
  | succ k ih => intro l; simp [packBytes, ih]

@[simp] theorem packLanes_length (k : Nat) : ∀ l : List Lane, (packLanes k l).length = k := by
  induction k with
  | zero => intro l; rfl
  | succ k ih => intro l; simp [packLanes, ih]

end Sys2Proof
end

