-- ==== Sys2Proof/Laws/State.lean ====
section
/-! SUPPORT. One lemma per field per state update, so that no later proof unfolds a record update, and the
reads of the register files after an update. -/

namespace Sys2Proof.Machine

variable (s : State)

/-! ### `putBlk` -/

@[simp] theorem putBlk_cfg (r : Nat) (x : Bits) : (s.putBlk r x).cfg = s.cfg := rfl
@[simp] theorem putBlk_phase (r : Nat) (x : Bits) : (s.putBlk r x).phase = s.phase := rfl
@[simp] theorem putBlk_b (r : Nat) (x : Bits) : (s.putBlk r x).b = s.b.setIfInBounds r (some x) := rfl
@[simp] theorem putBlk_p (r : Nat) (x : Bits) : (s.putBlk r x).p = s.p := rfl
@[simp] theorem putBlk_acc (r : Nat) (x : Bits) : (s.putBlk r x).acc = s.acc := rfl
@[simp] theorem putBlk_nodata (r : Nat) (x : Bits) : (s.putBlk r x).nodata = s.nodata := rfl
@[simp] theorem putBlk_fcause (r : Nat) (x : Bits) : (s.putBlk r x).fcause = s.fcause := rfl
@[simp] theorem putBlk_fcmd (r : Nat) (x : Bits) : (s.putBlk r x).fcmd = s.fcmd := rfl
@[simp] theorem putBlk_genr (r : Nat) (x : Bits) : (s.putBlk r x).genr = s.genr := rfl
@[simp] theorem putBlk_st (r : Nat) (x : Bits) : (s.putBlk r x).st = s.st := rfl
@[simp] theorem putBlk_ct (r : Nat) (x : Bits) : (s.putBlk r x).ct = s.ct := rfl
@[simp] theorem putBlk_thr (r : Nat) (x : Bits) : (s.putBlk r x).thr = s.thr := rfl
@[simp] theorem putBlk_opened (r : Nat) (x : Bits) : (s.putBlk r x).opened = s.opened := rfl
@[simp] theorem putBlk_port (r : Nat) (x : Bits) : (s.putBlk r x).port = s.port := rfl
@[simp] theorem putBlk_resetIn (r : Nat) (x : Bits) : (s.putBlk r x).resetIn = s.resetIn := rfl
@[simp] theorem putBlk_pt (r : Nat) (x : Bits) (n : Nat) : (s.putBlk r x).pt n = s.pt n := rfl

/-! ### `freeBlk` -/

@[simp] theorem freeBlk_cfg (r : Nat) : (s.freeBlk r).cfg = s.cfg := rfl
@[simp] theorem freeBlk_phase (r : Nat) : (s.freeBlk r).phase = s.phase := rfl
@[simp] theorem freeBlk_b (r : Nat) : (s.freeBlk r).b = s.b.setIfInBounds r none := rfl
@[simp] theorem freeBlk_p (r : Nat) : (s.freeBlk r).p = s.p := rfl
@[simp] theorem freeBlk_acc (r : Nat) : (s.freeBlk r).acc = s.acc := rfl
@[simp] theorem freeBlk_nodata (r : Nat) : (s.freeBlk r).nodata = s.nodata := rfl
@[simp] theorem freeBlk_fcause (r : Nat) : (s.freeBlk r).fcause = s.fcause := rfl
@[simp] theorem freeBlk_fcmd (r : Nat) : (s.freeBlk r).fcmd = s.fcmd := rfl
@[simp] theorem freeBlk_genr (r : Nat) : (s.freeBlk r).genr = s.genr := rfl
@[simp] theorem freeBlk_st (r : Nat) : (s.freeBlk r).st = s.st := rfl
@[simp] theorem freeBlk_ct (r : Nat) : (s.freeBlk r).ct = s.ct := rfl
@[simp] theorem freeBlk_thr (r : Nat) : (s.freeBlk r).thr = s.thr := rfl
@[simp] theorem freeBlk_opened (r : Nat) : (s.freeBlk r).opened = s.opened := rfl
@[simp] theorem freeBlk_port (r : Nat) : (s.freeBlk r).port = s.port := rfl
@[simp] theorem freeBlk_resetIn (r : Nat) : (s.freeBlk r).resetIn = s.resetIn := rfl
@[simp] theorem freeBlk_pt (r : Nat) (n : Nat) : (s.freeBlk r).pt n = s.pt n := rfl

/-! ### `putPt` -/

@[simp] theorem putPt_cfg (k : Nat) (t : Point) : (s.putPt k t).cfg = s.cfg := rfl
@[simp] theorem putPt_phase (k : Nat) (t : Point) : (s.putPt k t).phase = s.phase := rfl
@[simp] theorem putPt_b (k : Nat) (t : Point) : (s.putPt k t).b = s.b := rfl
@[simp] theorem putPt_p (k : Nat) (t : Point) : (s.putPt k t).p = s.p.setIfInBounds k (some t) := rfl
@[simp] theorem putPt_acc (k : Nat) (t : Point) : (s.putPt k t).acc = s.acc := rfl
@[simp] theorem putPt_nodata (k : Nat) (t : Point) : (s.putPt k t).nodata = s.nodata := rfl
@[simp] theorem putPt_fcause (k : Nat) (t : Point) : (s.putPt k t).fcause = s.fcause := rfl
@[simp] theorem putPt_fcmd (k : Nat) (t : Point) : (s.putPt k t).fcmd = s.fcmd := rfl
@[simp] theorem putPt_genr (k : Nat) (t : Point) : (s.putPt k t).genr = s.genr := rfl
@[simp] theorem putPt_st (k : Nat) (t : Point) : (s.putPt k t).st = s.st := rfl
@[simp] theorem putPt_ct (k : Nat) (t : Point) : (s.putPt k t).ct = s.ct := rfl
@[simp] theorem putPt_thr (k : Nat) (t : Point) : (s.putPt k t).thr = s.thr := rfl
@[simp] theorem putPt_opened (k : Nat) (t : Point) : (s.putPt k t).opened = s.opened := rfl
@[simp] theorem putPt_port (k : Nat) (t : Point) : (s.putPt k t).port = s.port := rfl
@[simp] theorem putPt_resetIn (k : Nat) (t : Point) : (s.putPt k t).resetIn = s.resetIn := rfl
@[simp] theorem putPt_blk (k : Nat) (t : Point) (n : Nat) : (s.putPt k t).blk n = s.blk n := rfl

/-! ### `putAcc` -/

@[simp] theorem putAcc_cfg (v : Word) : (s.putAcc v).cfg = s.cfg := rfl
@[simp] theorem putAcc_phase (v : Word) : (s.putAcc v).phase = s.phase := rfl
@[simp] theorem putAcc_b (v : Word) : (s.putAcc v).b = s.b := rfl
@[simp] theorem putAcc_p (v : Word) : (s.putAcc v).p = s.p := rfl
@[simp] theorem putAcc_acc (v : Word) : (s.putAcc v).acc = v := rfl
@[simp] theorem putAcc_nodata (v : Word) : (s.putAcc v).nodata = s.nodata := rfl
@[simp] theorem putAcc_fcause (v : Word) : (s.putAcc v).fcause = s.fcause := rfl
@[simp] theorem putAcc_fcmd (v : Word) : (s.putAcc v).fcmd = s.fcmd := rfl
@[simp] theorem putAcc_genr (v : Word) : (s.putAcc v).genr = s.genr := rfl
@[simp] theorem putAcc_st (v : Word) : (s.putAcc v).st = s.st := rfl
@[simp] theorem putAcc_ct (v : Word) : (s.putAcc v).ct = s.ct := rfl
@[simp] theorem putAcc_thr (v : Word) : (s.putAcc v).thr = s.thr := rfl
@[simp] theorem putAcc_opened (v : Word) : (s.putAcc v).opened = s.opened := rfl
@[simp] theorem putAcc_port (v : Word) : (s.putAcc v).port = s.port := rfl
@[simp] theorem putAcc_resetIn (v : Word) : (s.putAcc v).resetIn = s.resetIn := rfl
@[simp] theorem putAcc_blk (v : Word) (n : Nat) : (s.putAcc v).blk n = s.blk n := rfl
@[simp] theorem putAcc_pt (v : Word) (n : Nat) : (s.putAcc v).pt n = s.pt n := rfl

/-! ### `arrayDone` -/

@[simp] theorem arrayDone_cfg (out : Nat) : (s.arrayDone out).cfg = s.cfg := rfl
@[simp] theorem arrayDone_phase (out : Nat) : (s.arrayDone out).phase = s.phase := rfl
@[simp] theorem arrayDone_b (out : Nat) : (s.arrayDone out).b = s.b := rfl
@[simp] theorem arrayDone_p (out : Nat) : (s.arrayDone out).p = s.p := rfl
@[simp] theorem arrayDone_acc (out : Nat) : (s.arrayDone out).acc = BitVec.ofNat 64 out := rfl
@[simp] theorem arrayDone_nodata (out : Nat) : (s.arrayDone out).nodata = noDataOf out := rfl
@[simp] theorem arrayDone_fcause (out : Nat) : (s.arrayDone out).fcause = s.fcause := rfl
@[simp] theorem arrayDone_fcmd (out : Nat) : (s.arrayDone out).fcmd = s.fcmd := rfl
@[simp] theorem arrayDone_genr (out : Nat) : (s.arrayDone out).genr = s.genr := rfl
@[simp] theorem arrayDone_st (out : Nat) : (s.arrayDone out).st = s.st := rfl
@[simp] theorem arrayDone_ct (out : Nat) : (s.arrayDone out).ct = s.ct := rfl
@[simp] theorem arrayDone_thr (out : Nat) : (s.arrayDone out).thr = s.thr := rfl
@[simp] theorem arrayDone_opened (out : Nat) : (s.arrayDone out).opened = s.opened := rfl
@[simp] theorem arrayDone_port (out : Nat) : (s.arrayDone out).port = s.port := rfl
@[simp] theorem arrayDone_resetIn (out : Nat) : (s.arrayDone out).resetIn = s.resetIn := rfl
@[simp] theorem arrayDone_blk (out : Nat) (n : Nat) : (s.arrayDone out).blk n = s.blk n := rfl
@[simp] theorem arrayDone_pt (out : Nat) (n : Nat) : (s.arrayDone out).pt n = s.pt n := rfl

/-! ### `raiseFatal` -/

@[simp] theorem raiseFatal_cfg (cause : FatalCause) (w : Word) : (s.raiseFatal cause w).cfg = s.cfg := rfl
@[simp] theorem raiseFatal_phase (cause : FatalCause) (w : Word) : (s.raiseFatal cause w).phase = .fatal := rfl
@[simp] theorem raiseFatal_b (cause : FatalCause) (w : Word) : (s.raiseFatal cause w).b = s.b := rfl
@[simp] theorem raiseFatal_p (cause : FatalCause) (w : Word) : (s.raiseFatal cause w).p = s.p := rfl
@[simp] theorem raiseFatal_acc (cause : FatalCause) (w : Word) : (s.raiseFatal cause w).acc = s.acc := rfl
@[simp] theorem raiseFatal_nodata (cause : FatalCause) (w : Word) : (s.raiseFatal cause w).nodata = s.nodata := rfl
@[simp] theorem raiseFatal_fcause (cause : FatalCause) (w : Word) : (s.raiseFatal cause w).fcause = causeCode cause := rfl
@[simp] theorem raiseFatal_fcmd (cause : FatalCause) (w : Word) : (s.raiseFatal cause w).fcmd = w := rfl
@[simp] theorem raiseFatal_genr (cause : FatalCause) (w : Word) : (s.raiseFatal cause w).genr = s.genr := rfl
@[simp] theorem raiseFatal_st (cause : FatalCause) (w : Word) : (s.raiseFatal cause w).st = s.st := rfl
@[simp] theorem raiseFatal_ct (cause : FatalCause) (w : Word) : (s.raiseFatal cause w).ct = s.ct := rfl
@[simp] theorem raiseFatal_thr (cause : FatalCause) (w : Word) : (s.raiseFatal cause w).thr = s.thr := rfl
@[simp] theorem raiseFatal_opened (cause : FatalCause) (w : Word) : (s.raiseFatal cause w).opened = s.opened := rfl
@[simp] theorem raiseFatal_port (cause : FatalCause) (w : Word) : (s.raiseFatal cause w).port = s.port := rfl
@[simp] theorem raiseFatal_resetIn (cause : FatalCause) (w : Word) : (s.raiseFatal cause w).resetIn = s.resetIn := rfl
@[simp] theorem raiseFatal_blk (cause : FatalCause) (w : Word) (n : Nat) : (s.raiseFatal cause w).blk n = s.blk n := rfl
@[simp] theorem raiseFatal_pt (cause : FatalCause) (w : Word) (n : Nat) : (s.raiseFatal cause w).pt n = s.pt n := rfl

/-! ### `buildTables` -/

@[simp] theorem buildTables_cfg : (s.buildTables).cfg = s.cfg := rfl
@[simp] theorem buildTables_phase : (s.buildTables).phase = .ready := rfl
@[simp] theorem buildTables_b : (s.buildTables).b = s.b := rfl
@[simp] theorem buildTables_p : (s.buildTables).p = s.p := rfl
@[simp] theorem buildTables_acc : (s.buildTables).acc = s.acc := rfl
@[simp] theorem buildTables_nodata : (s.buildTables).nodata = s.nodata := rfl
@[simp] theorem buildTables_fcause : (s.buildTables).fcause = s.fcause := rfl
@[simp] theorem buildTables_fcmd : (s.buildTables).fcmd = s.fcmd := rfl
@[simp] theorem buildTables_genr : (s.buildTables).genr = builtGenr s.cfg.val := rfl
@[simp] theorem buildTables_st : (s.buildTables).st = builtSt s.cfg.val := rfl
@[simp] theorem buildTables_ct : (s.buildTables).ct = builtCt s.cfg.val := rfl
@[simp] theorem buildTables_thr : (s.buildTables).thr = builtThr s.cfg.val := rfl
@[simp] theorem buildTables_opened : (s.buildTables).opened = s.opened := rfl
@[simp] theorem buildTables_port : (s.buildTables).port = s.port := rfl
@[simp] theorem buildTables_resetIn : (s.buildTables).resetIn = s.resetIn := rfl
@[simp] theorem buildTables_blk (n : Nat) : (s.buildTables).blk n = s.blk n := rfl
@[simp] theorem buildTables_pt (n : Nat) : (s.buildTables).pt n = s.pt n := rfl

/-! ### `accept` -/

@[simp] theorem accept_cfg (rest : List Word) : (s.accept rest).cfg = s.cfg := rfl
@[simp] theorem accept_phase (rest : List Word) : (s.accept rest).phase = s.phase := rfl
@[simp] theorem accept_b (rest : List Word) : (s.accept rest).b = s.b := rfl
@[simp] theorem accept_p (rest : List Word) : (s.accept rest).p = s.p := rfl
@[simp] theorem accept_acc (rest : List Word) : (s.accept rest).acc = s.acc := rfl
@[simp] theorem accept_nodata (rest : List Word) : (s.accept rest).nodata = s.nodata := rfl
@[simp] theorem accept_fcause (rest : List Word) : (s.accept rest).fcause = s.fcause := rfl
@[simp] theorem accept_fcmd (rest : List Word) : (s.accept rest).fcmd = s.fcmd := rfl
@[simp] theorem accept_genr (rest : List Word) : (s.accept rest).genr = s.genr := rfl
@[simp] theorem accept_st (rest : List Word) : (s.accept rest).st = s.st := rfl
@[simp] theorem accept_ct (rest : List Word) : (s.accept rest).ct = s.ct := rfl
@[simp] theorem accept_thr (rest : List Word) : (s.accept rest).thr = s.thr := rfl
@[simp] theorem accept_opened (rest : List Word) : (s.accept rest).opened = [] := rfl
@[simp] theorem accept_port (rest : List Word) : (s.accept rest).port = rest := rfl
@[simp] theorem accept_resetIn (rest : List Word) : (s.accept rest).resetIn = s.resetIn := rfl
@[simp] theorem accept_blk (rest : List Word) (n : Nat) : (s.accept rest).blk n = s.blk n := rfl
@[simp] theorem accept_pt (rest : List Word) (n : Nat) : (s.accept rest).pt n = s.pt n := rfl

/-! ### `acceptPart` -/

@[simp] theorem acceptPart_cfg : (s.acceptPart).cfg = s.cfg := rfl
@[simp] theorem acceptPart_phase : (s.acceptPart).phase = s.phase := rfl
@[simp] theorem acceptPart_b : (s.acceptPart).b = s.b := rfl
@[simp] theorem acceptPart_p : (s.acceptPart).p = s.p := rfl
@[simp] theorem acceptPart_acc : (s.acceptPart).acc = s.acc := rfl
@[simp] theorem acceptPart_nodata : (s.acceptPart).nodata = s.nodata := rfl
@[simp] theorem acceptPart_fcause : (s.acceptPart).fcause = s.fcause := rfl
@[simp] theorem acceptPart_fcmd : (s.acceptPart).fcmd = s.fcmd := rfl
@[simp] theorem acceptPart_genr : (s.acceptPart).genr = s.genr := rfl
@[simp] theorem acceptPart_st : (s.acceptPart).st = s.st := rfl
@[simp] theorem acceptPart_ct : (s.acceptPart).ct = s.ct := rfl
@[simp] theorem acceptPart_thr : (s.acceptPart).thr = s.thr := rfl
@[simp] theorem acceptPart_opened : (s.acceptPart).opened = s.stream := rfl
@[simp] theorem acceptPart_port : (s.acceptPart).port = [] := rfl
@[simp] theorem acceptPart_resetIn : (s.acceptPart).resetIn = s.resetIn := rfl
@[simp] theorem acceptPart_blk (n : Nat) : (s.acceptPart).blk n = s.blk n := rfl
@[simp] theorem acceptPart_pt (n : Nat) : (s.acceptPart).pt n = s.pt n := rfl

/-! ### `fatalState` -/

@[simp] theorem fatalState_cfg (cause : FatalCause) (w : Word) : (fatalState s cause w).cfg = s.cfg := rfl
@[simp] theorem fatalState_phase (cause : FatalCause) (w : Word) : (fatalState s cause w).phase = .fatal := rfl
@[simp] theorem fatalState_b (cause : FatalCause) (w : Word) : (fatalState s cause w).b = s.b := rfl
@[simp] theorem fatalState_p (cause : FatalCause) (w : Word) : (fatalState s cause w).p = s.p := rfl
@[simp] theorem fatalState_acc (cause : FatalCause) (w : Word) : (fatalState s cause w).acc = s.acc := rfl
@[simp] theorem fatalState_nodata (cause : FatalCause) (w : Word) : (fatalState s cause w).nodata = s.nodata := rfl
@[simp] theorem fatalState_fcause (cause : FatalCause) (w : Word) : (fatalState s cause w).fcause = causeCode cause := rfl
@[simp] theorem fatalState_fcmd (cause : FatalCause) (w : Word) : (fatalState s cause w).fcmd = w := rfl
@[simp] theorem fatalState_genr (cause : FatalCause) (w : Word) : (fatalState s cause w).genr = s.genr := rfl
@[simp] theorem fatalState_st (cause : FatalCause) (w : Word) : (fatalState s cause w).st = s.st := rfl
@[simp] theorem fatalState_ct (cause : FatalCause) (w : Word) : (fatalState s cause w).ct = s.ct := rfl
@[simp] theorem fatalState_thr (cause : FatalCause) (w : Word) : (fatalState s cause w).thr = s.thr := rfl
@[simp] theorem fatalState_opened (cause : FatalCause) (w : Word) : (fatalState s cause w).opened = s.opened := rfl
@[simp] theorem fatalState_port (cause : FatalCause) (w : Word) : (fatalState s cause w).port = s.port := rfl
@[simp] theorem fatalState_resetIn (cause : FatalCause) (w : Word) : (fatalState s cause w).resetIn = s.resetIn := rfl
@[simp] theorem fatalState_blk (cause : FatalCause) (w : Word) (n : Nat) : (fatalState s cause w).blk n = s.blk n := rfl
@[simp] theorem fatalState_pt (cause : FatalCause) (w : Word) (n : Nat) : (fatalState s cause w).pt n = s.pt n := rfl
theorem raiseFatal_eq_fatalState (cause : FatalCause) (w : Word) : s.raiseFatal cause w = fatalState s cause w := rfl

/-! ### `putBlks` and `putPts` -/

@[simp] theorem putBlks_cfg (xs : List Bits) : ∀ (s : State) (base : Nat), (s.putBlks base xs).cfg = s.cfg := by
  induction xs with
  | nil => intros; rfl
  | cons x xs ih => intro s base; exact (ih (s.putBlk base x) (base + 1)).trans rfl

@[simp] theorem putBlks_phase (xs : List Bits) : ∀ (s : State) (base : Nat), (s.putBlks base xs).phase = s.phase := by
  induction xs with
  | nil => intros; rfl
  | cons x xs ih => intro s base; exact (ih (s.putBlk base x) (base + 1)).trans rfl

@[simp] theorem putBlks_p (xs : List Bits) : ∀ (s : State) (base : Nat), (s.putBlks base xs).p = s.p := by
  induction xs with
  | nil => intros; rfl
  | cons x xs ih => intro s base; exact (ih (s.putBlk base x) (base + 1)).trans rfl

@[simp] theorem putBlks_acc (xs : List Bits) : ∀ (s : State) (base : Nat), (s.putBlks base xs).acc = s.acc := by
  induction xs with
  | nil => intros; rfl
  | cons x xs ih => intro s base; exact (ih (s.putBlk base x) (base + 1)).trans rfl

@[simp] theorem putBlks_nodata (xs : List Bits) : ∀ (s : State) (base : Nat), (s.putBlks base xs).nodata = s.nodata := by
  induction xs with
  | nil => intros; rfl
  | cons x xs ih => intro s base; exact (ih (s.putBlk base x) (base + 1)).trans rfl

@[simp] theorem putBlks_fcause (xs : List Bits) : ∀ (s : State) (base : Nat), (s.putBlks base xs).fcause = s.fcause := by
  induction xs with
  | nil => intros; rfl
  | cons x xs ih => intro s base; exact (ih (s.putBlk base x) (base + 1)).trans rfl

@[simp] theorem putBlks_fcmd (xs : List Bits) : ∀ (s : State) (base : Nat), (s.putBlks base xs).fcmd = s.fcmd := by
  induction xs with
  | nil => intros; rfl
  | cons x xs ih => intro s base; exact (ih (s.putBlk base x) (base + 1)).trans rfl

@[simp] theorem putBlks_genr (xs : List Bits) : ∀ (s : State) (base : Nat), (s.putBlks base xs).genr = s.genr := by
  induction xs with
  | nil => intros; rfl
  | cons x xs ih => intro s base; exact (ih (s.putBlk base x) (base + 1)).trans rfl

@[simp] theorem putBlks_st (xs : List Bits) : ∀ (s : State) (base : Nat), (s.putBlks base xs).st = s.st := by
  induction xs with
  | nil => intros; rfl
  | cons x xs ih => intro s base; exact (ih (s.putBlk base x) (base + 1)).trans rfl

@[simp] theorem putBlks_ct (xs : List Bits) : ∀ (s : State) (base : Nat), (s.putBlks base xs).ct = s.ct := by
  induction xs with
  | nil => intros; rfl
  | cons x xs ih => intro s base; exact (ih (s.putBlk base x) (base + 1)).trans rfl

@[simp] theorem putBlks_thr (xs : List Bits) : ∀ (s : State) (base : Nat), (s.putBlks base xs).thr = s.thr := by
  induction xs with
  | nil => intros; rfl
  | cons x xs ih => intro s base; exact (ih (s.putBlk base x) (base + 1)).trans rfl

@[simp] theorem putBlks_opened (xs : List Bits) : ∀ (s : State) (base : Nat), (s.putBlks base xs).opened = s.opened := by
  induction xs with
  | nil => intros; rfl
  | cons x xs ih => intro s base; exact (ih (s.putBlk base x) (base + 1)).trans rfl

@[simp] theorem putBlks_port (xs : List Bits) : ∀ (s : State) (base : Nat), (s.putBlks base xs).port = s.port := by
  induction xs with
  | nil => intros; rfl
  | cons x xs ih => intro s base; exact (ih (s.putBlk base x) (base + 1)).trans rfl

@[simp] theorem putBlks_resetIn (xs : List Bits) : ∀ (s : State) (base : Nat), (s.putBlks base xs).resetIn = s.resetIn := by
  induction xs with
  | nil => intros; rfl
  | cons x xs ih => intro s base; exact (ih (s.putBlk base x) (base + 1)).trans rfl

@[simp] theorem putPts_cfg (ts : List Point) : ∀ (s : State) (base : Nat), (s.putPts base ts).cfg = s.cfg := by
  induction ts with
  | nil => intros; rfl
  | cons t ts ih => intro s base; exact (ih (s.putPt base t) (base + 1)).trans rfl

@[simp] theorem putPts_phase (ts : List Point) : ∀ (s : State) (base : Nat), (s.putPts base ts).phase = s.phase := by
  induction ts with
  | nil => intros; rfl
  | cons t ts ih => intro s base; exact (ih (s.putPt base t) (base + 1)).trans rfl

@[simp] theorem putPts_b (ts : List Point) : ∀ (s : State) (base : Nat), (s.putPts base ts).b = s.b := by
  induction ts with
  | nil => intros; rfl
  | cons t ts ih => intro s base; exact (ih (s.putPt base t) (base + 1)).trans rfl

@[simp] theorem putPts_acc (ts : List Point) : ∀ (s : State) (base : Nat), (s.putPts base ts).acc = s.acc := by
  induction ts with
  | nil => intros; rfl
  | cons t ts ih => intro s base; exact (ih (s.putPt base t) (base + 1)).trans rfl

@[simp] theorem putPts_nodata (ts : List Point) : ∀ (s : State) (base : Nat), (s.putPts base ts).nodata = s.nodata := by
  induction ts with
  | nil => intros; rfl
  | cons t ts ih => intro s base; exact (ih (s.putPt base t) (base + 1)).trans rfl

@[simp] theorem putPts_fcause (ts : List Point) : ∀ (s : State) (base : Nat), (s.putPts base ts).fcause = s.fcause := by
  induction ts with
  | nil => intros; rfl
  | cons t ts ih => intro s base; exact (ih (s.putPt base t) (base + 1)).trans rfl

@[simp] theorem putPts_fcmd (ts : List Point) : ∀ (s : State) (base : Nat), (s.putPts base ts).fcmd = s.fcmd := by
  induction ts with
  | nil => intros; rfl
  | cons t ts ih => intro s base; exact (ih (s.putPt base t) (base + 1)).trans rfl

@[simp] theorem putPts_genr (ts : List Point) : ∀ (s : State) (base : Nat), (s.putPts base ts).genr = s.genr := by
  induction ts with
  | nil => intros; rfl
  | cons t ts ih => intro s base; exact (ih (s.putPt base t) (base + 1)).trans rfl

@[simp] theorem putPts_st (ts : List Point) : ∀ (s : State) (base : Nat), (s.putPts base ts).st = s.st := by
  induction ts with
  | nil => intros; rfl
  | cons t ts ih => intro s base; exact (ih (s.putPt base t) (base + 1)).trans rfl

@[simp] theorem putPts_ct (ts : List Point) : ∀ (s : State) (base : Nat), (s.putPts base ts).ct = s.ct := by
  induction ts with
  | nil => intros; rfl
  | cons t ts ih => intro s base; exact (ih (s.putPt base t) (base + 1)).trans rfl

@[simp] theorem putPts_thr (ts : List Point) : ∀ (s : State) (base : Nat), (s.putPts base ts).thr = s.thr := by
  induction ts with
  | nil => intros; rfl
  | cons t ts ih => intro s base; exact (ih (s.putPt base t) (base + 1)).trans rfl

@[simp] theorem putPts_opened (ts : List Point) : ∀ (s : State) (base : Nat), (s.putPts base ts).opened = s.opened := by
  induction ts with
  | nil => intros; rfl
  | cons t ts ih => intro s base; exact (ih (s.putPt base t) (base + 1)).trans rfl

@[simp] theorem putPts_port (ts : List Point) : ∀ (s : State) (base : Nat), (s.putPts base ts).port = s.port := by
  induction ts with
  | nil => intros; rfl
  | cons t ts ih => intro s base; exact (ih (s.putPt base t) (base + 1)).trans rfl

@[simp] theorem putPts_resetIn (ts : List Point) : ∀ (s : State) (base : Nat), (s.putPts base ts).resetIn = s.resetIn := by
  induction ts with
  | nil => intros; rfl
  | cons t ts ih => intro s base; exact (ih (s.putPt base t) (base + 1)).trans rfl

@[simp] theorem putBlks_pt (xs : List Bits) (base k : Nat) : (s.putBlks base xs).pt k = s.pt k := by
  simp [State.pt]

@[simp] theorem putPts_blk (ts : List Point) (base r : Nat) : (s.putPts base ts).blk r = s.blk r := by
  simp [State.blk]

/-! ### The state after reset -/

variable (cfg : LegalConfig) (ws : List Word)


@[simp] theorem afterReset_cfg : (State.afterReset cfg ws).cfg = cfg := rfl
@[simp] theorem afterReset_phase : (State.afterReset cfg ws).phase = .uninit := rfl
@[simp] theorem afterReset_acc : (State.afterReset cfg ws).acc = 0 := rfl
@[simp] theorem afterReset_nodata : (State.afterReset cfg ws).nodata = false := rfl
@[simp] theorem afterReset_fcause : (State.afterReset cfg ws).fcause = 0 := rfl
@[simp] theorem afterReset_fcmd : (State.afterReset cfg ws).fcmd = 0 := rfl
@[simp] theorem afterReset_opened : (State.afterReset cfg ws).opened = [] := rfl
@[simp] theorem afterReset_port : (State.afterReset cfg ws).port = ws := rfl
@[simp] theorem afterReset_resetIn : (State.afterReset cfg ws).resetIn = false := rfl

theorem takeReset_eq : s.takeReset = State.afterReset s.cfg s.port := rfl

@[simp] theorem afterReset_blk (r : Nat) : (State.afterReset cfg ws).blk r = none := by
  simp only [State.blk, State.afterReset, Vector.getElem?_replicate]
  split <;> rfl

@[simp] theorem afterReset_pt (k : Nat) : (State.afterReset cfg ws).pt k = none := by
  simp only [State.pt, State.afterReset, Vector.getElem?_replicate]
  split <;> rfl

/-! ### Reads of the register files after a write -/

/-- Register numbers at and past 64 hold nothing. -/
theorem blk_of_ge {r : Nat} (h : 64 ≤ r) : s.blk r = none := by
  simp [State.blk, Vector.getElem?_eq_none h]

theorem pt_of_ge {k : Nat} (h : 64 ≤ k) : s.pt k = none := by
  simp [State.pt, Vector.getElem?_eq_none h]

/-- What every block register reads after one is written. -/
theorem blk_putBlk {r : Nat} (hr : r < 64) (x : Bits) (n : Nat) : (s.putBlk r x).blk n = withBlk s r x n := by
  simp only [State.blk, State.putBlk, withBlk, Vector.getElem?_setIfInBounds, hr, if_true]
  by_cases h : r = n
  · subst h; simp
  · simp [h, Ne.symm h]

/-- What every block register reads after one is released. -/
theorem blk_freeBlk {r : Nat} (hr : r < 64) (n : Nat) :
    (s.freeBlk r).blk n = if n = r then none else s.blk n := by
  simp only [State.blk, State.freeBlk, Vector.getElem?_setIfInBounds, hr, if_true]
  by_cases h : r = n
  · subst h; simp
  · simp [h, Ne.symm h]

/-- What every point register reads after one is written. -/
theorem pt_putPt {k : Nat} (hk : k < 64) (t : Point) (n : Nat) : (s.putPt k t).pt n = withPt s k t n := by
  simp only [State.pt, State.putPt, withPt, Vector.getElem?_setIfInBounds, hk, if_true]
  by_cases h : k = n
  · subst h; simp
  · simp [h, Ne.symm h]

/-- What every block register reads after an array is written. -/
theorem blk_putBlks (xs : List Bits) : ∀ (s : State) (base : Nat), base + xs.length ≤ 64 →
    ∀ n, (s.putBlks base xs).blk n = withBlks s base xs n := by
  induction xs with
  | nil =>
    intro s base _ n
    simp [State.putBlks, withBlks]
  | cons x xs ih =>
    intro s base hb n
    simp only [List.length_cons] at hb
    rw [State.putBlks, ih _ _ (by omega)]
    simp only [withBlks, List.length_cons, blk_putBlk s (by omega : base < 64), withBlk]
    by_cases h0 : n = base
    · subst h0
      simp
    · by_cases h1 : base + 1 ≤ n ∧ n < base + 1 + xs.length
      · have h2 : base ≤ n ∧ n < base + (xs.length + 1) := by omega
        have h3 : n - base = (n - (base + 1)) + 1 := by omega
        rw [if_pos h1, if_pos h2, h3, List.getElem?_cons_succ]
      · have h2 : ¬ (base ≤ n ∧ n < base + (xs.length + 1)) := by omega
        rw [if_neg h1, if_neg h2, if_neg h0]

/-- What every point register reads after an array is written. -/
theorem pt_putPts (ts : List Point) : ∀ (s : State) (base : Nat), base + ts.length ≤ 64 →
    ∀ n, (s.putPts base ts).pt n = withPts s base ts n := by
  induction ts with
  | nil =>
    intro s base _ n
    simp [State.putPts, withPts]
  | cons t ts ih =>
    intro s base hb n
    simp only [List.length_cons] at hb
    rw [State.putPts, ih _ _ (by omega)]
    simp only [withPts, List.length_cons, pt_putPt s (by omega : base < 64), withPt]
    by_cases h0 : n = base
    · subst h0
      simp
    · by_cases h1 : base + 1 ≤ n ∧ n < base + 1 + ts.length
      · have h2 : base ≤ n ∧ n < base + (ts.length + 1) := by omega
        have h3 : n - base = (n - (base + 1)) + 1 := by omega
        rw [if_pos h1, if_pos h2, h3, List.getElem?_cons_succ]
      · have h2 : ¬ (base ≤ n ∧ n < base + (ts.length + 1)) := by omega
        rw [if_neg h1, if_neg h2, if_neg h0]

end Sys2Proof.Machine
end

