-- ==== Sys2Proof/Laws/Operands.lean ====
section
/-! SUPPORT. What each operand check and the frame of a command can do, said once: when a check passes and what
it yields, when it raises and which cause, and what `command` answers in each phase. -/

namespace Sys2Proof.Machine

variable {s : State}

/-! ### Single checks -/

@[simp] theorem require_true (cause : FatalCause) : require true cause = .ok () := rfl
@[simp] theorem require_false (cause : FatalCause) : require false cause = .error cause := rfl

theorem require_eq_ok_iff {c : Bool} {cause : FatalCause} {u : Unit} : require c cause = .ok u ↔ c = true := by
  cases c <;> simp

theorem require_eq_error_iff {c : Bool} {cause e : FatalCause} :
    require c cause = .error e ↔ c = false ∧ e = cause := by
  cases c <;> simp [eq_comm]

@[simp] theorem present_some {α : Type} (x : α) (cause : FatalCause) : present (some x) cause = .ok x := rfl
@[simp] theorem present_none {α : Type} (cause : FatalCause) :
    present (none : Option α) cause = .error cause := rfl

theorem present_eq_ok_iff {α : Type} {o : Option α} {cause : FatalCause} {x : α} :
    present o cause = .ok x ↔ o = some x := by
  cases o <;> simp

/-- A register field is below 64, so `need_reg` never fires for it (R44). -/
theorem reg_lt (r : RegIx) : r.toNat < 64 := r.isLt

@[simp] theorem needBlk_reg (s : State) (r : RegIx) : needBlk s r.toNat = present (s.blk r.toNat) .nullref := by
  have h : r.toNat < NB := r.isLt
  simp [needBlk, h]

@[simp] theorem needPt_reg (s : State) (r : RegIx) : needPt s r.toNat = present (s.pt r.toNat) .nullref := by
  have h : r.toNat < NP := r.isLt
  simp [needPt, h]

theorem present_eq_error_iff {α : Type} {o : Option α} {cause e : FatalCause} :
    present o cause = .error e ↔ o = none ∧ e = cause := by
  cases o <;> simp [eq_comm]

theorem needIdx_eq_ok_iff {x : Bits} {i : Nat} {u : Unit} : needIdx x i = .ok u ↔ i < x.length := by
  simp [needIdx, require_eq_ok_iff]

theorem needIdx_eq_error_iff {x : Bits} {i : Nat} {e : FatalCause} :
    needIdx x i = .error e ↔ x.length ≤ i ∧ e = .range := by
  simp [needIdx, require_eq_error_iff]

theorem needArray_eq_ok_iff {base count : Nat} {u : Unit} : needArray base count = .ok u ↔ base + count ≤ 64 := by
  simp [needArray, require_eq_ok_iff]

theorem needArray_eq_error_iff {base count : Nat} {e : FatalCause} :
    needArray base count = .error e ↔ 64 < base + count ∧ e = .range := by
  simp [needArray, require_eq_error_iff]

theorem needSize_eq_ok_iff {size : Option Nat} {xs : List Bits} {u : Unit} :
    needSize size xs = .ok u ↔ ∀ len, size = some len → ∀ x ∈ xs, x.length = len := by
  cases size <;> simp [needSize, require_eq_ok_iff]

theorem needSize_eq_error_iff {size : Option Nat} {xs : List Bits} {e : FatalCause} :
    needSize size xs = .error e ↔ (∃ len, size = some len ∧ ∃ x ∈ xs, x.length ≠ len) ∧ e = .range := by
  cases size <;> simp [needSize, require_eq_error_iff]

theorem needUniform_eq_ok_iff {xs : List Bits} {u : Unit} :
    needUniform xs = .ok u ↔ ∀ x ∈ xs, ∀ y ∈ xs, x.length = y.length := by
  cases xs with
  | nil => simp [needUniform]
  | cons z zs =>
    simp only [needUniform, require_eq_ok_iff, List.all_eq_true, beq_iff_eq, List.headD_cons]
    exact ⟨fun h x hx y hy => (h x hx).trans (h y hy).symm, fun h x hx => h x hx z (by simp)⟩

theorem needUniform_eq_error_iff {xs : List Bits} {e : FatalCause} :
    needUniform xs = .error e ↔ (∃ x ∈ xs, ∃ y ∈ xs, x.length ≠ y.length) ∧ e = .range := by
  cases h : needUniform xs with
  | ok u =>
    have := needUniform_eq_ok_iff.mp h
    simp only [reduceCtorEq, false_iff, not_and]
    rintro ⟨x, hx, y, hy, hn⟩
    exact absurd (this x hx y hy) hn
  | error c =>
    have hn : ¬ ∀ x ∈ xs, ∀ y ∈ xs, x.length = y.length := fun hall => by
      rw [needUniform_eq_ok_iff (u := ()).mpr hall] at h
      cases h
    have hc : c = .range := by
      simp only [needUniform, require_eq_error_iff] at h
      exact h.2
    subst hc
    simp only [Except.error.injEq]
    push Not at hn
    exact ⟨fun he => ⟨hn, he.symm⟩, fun he => he.2.symm⟩

/-! ### Sequences of checks -/

theorem bind_eq_ok_iff {α β : Type} {x : Checked α} {f : α → Checked β} {b : β} :
    (x >>= f) = .ok b ↔ ∃ a, x = .ok a ∧ f a = .ok b := by
  cases x <;> simp [bind, Except.bind]

theorem bind_eq_error_iff {α β : Type} {x : Checked α} {f : α → Checked β} {e : FatalCause} :
    (x >>= f) = .error e ↔ x = .error e ∨ ∃ a, x = .ok a ∧ f a = .error e := by
  cases x <;> simp [bind, Except.bind]

/-! ### Array sources -/

theorem holdsBlks_nil (s : State) (base : Nat) : HoldsBlks s base [] := fun _ h => absurd h (Nat.not_lt_zero _)

theorem holdsBlks_cons {base : Nat} {x : Bits} {xs : List Bits} :
    HoldsBlks s base (x :: xs) ↔ s.blk base = some x ∧ HoldsBlks s (base + 1) xs := by
  constructor
  · intro h
    refine ⟨by simpa using h 0 (by simp), fun j hj => ?_⟩
    have := h (j + 1) (by simpa using hj)
    simpa [Nat.add_assoc, Nat.add_comm 1 j] using this
  · rintro ⟨h0, h⟩ j hj
    cases j with
    | zero => simpa using h0
    | succ j =>
      have := h j (by simpa using hj)
      simpa [Nat.add_assoc, Nat.add_comm 1 j] using this

/-- The source blocks are read exactly when every one is allocated. -/
theorem sourceBlks_eq_ok_iff {n : Nat} : ∀ {base : Nat} {xs : List Bits},
    sourceBlks s base n = .ok xs ↔ xs.length = n ∧ HoldsBlks s base xs := by
  induction n with
  | zero =>
    intro base xs
    cases xs <;> simp [sourceBlks, holdsBlks_nil]
  | succ n ih =>
    intro base xs
    cases hb : s.blk base with
    | none =>
      cases xs with
      | nil => simp [sourceBlks, hb, bind, Except.bind]
      | cons x xs => simp [sourceBlks, hb, bind, Except.bind, holdsBlks_cons]
    | some y =>
      cases hr : sourceBlks s (base + 1) n with
      | error c =>
        cases xs with
        | nil => simp [sourceBlks, hb, hr, bind, Except.bind]
        | cons x xs =>
          have := @ih (base + 1) xs
          simp only [hr, reduceCtorEq, false_iff] at this
          simp [sourceBlks, hb, hr, bind, Except.bind, holdsBlks_cons]
          tauto
      | ok ys =>
        cases xs with
        | nil => simp [sourceBlks, hb, hr, bind, Except.bind]
        | cons x xs =>
          have := @ih (base + 1) xs
          simp only [hr, Except.ok.injEq] at this
          simp [sourceBlks, hb, hr, bind, Except.bind, holdsBlks_cons, this]
          tauto

/-- Reading the source blocks fails only with NULLREF, and exactly when one is missing. -/
theorem sourceBlks_eq_error_iff {n : Nat} {cause : FatalCause} : ∀ {base : Nat},
    sourceBlks s base n = .error cause ↔ cause = .nullref ∧ MissingBlk s base n := by
  induction n with
  | zero =>
    intro base
    simp [sourceBlks, MissingBlk]
  | succ n ih =>
    intro base
    have hm : MissingBlk s base (n + 1) ↔ s.blk base = none ∨ MissingBlk s (base + 1) n := by
      constructor
      · rintro ⟨j, hj, h⟩
        cases j with
        | zero => exact .inl h
        | succ j => exact .inr ⟨j, by omega, by rwa [Nat.add_assoc, Nat.add_comm 1 j]⟩
      · rintro (h | ⟨j, hj, h⟩)
        · exact ⟨0, by omega, h⟩
        · exact ⟨j + 1, by omega, by rwa [Nat.add_assoc, Nat.add_comm 1 j] at h⟩
    cases hb : s.blk base with
    | none => simp [sourceBlks, hb, bind, Except.bind, hm, eq_comm]
    | some y =>
      cases hr : sourceBlks s (base + 1) n with
      | error c =>
        have := @ih (base + 1)
        simp only [hr, Except.error.injEq] at this
        simp [sourceBlks, hb, hr, bind, Except.bind, hm, this]
      | ok ys =>
        have := @ih (base + 1)
        simp only [hr, reduceCtorEq, false_iff] at this
        simp [sourceBlks, hb, hr, bind, Except.bind, hm]
        tauto

theorem holdsPts_nil (s : State) (base : Nat) : HoldsPts s base [] := fun _ h => absurd h (Nat.not_lt_zero _)

theorem holdsPts_cons {base : Nat} {x : Point} {xs : List Point} :
    HoldsPts s base (x :: xs) ↔ s.pt base = some x ∧ HoldsPts s (base + 1) xs := by
  constructor
  · intro h
    refine ⟨by simpa using h 0 (by simp), fun j hj => ?_⟩
    have := h (j + 1) (by simpa using hj)
    simpa [Nat.add_assoc, Nat.add_comm 1 j] using this
  · rintro ⟨h0, h⟩ j hj
    cases j with
    | zero => simpa using h0
    | succ j =>
      have := h j (by simpa using hj)
      simpa [Nat.add_assoc, Nat.add_comm 1 j] using this

/-- The source points are read exactly when every one is valid. -/
theorem sourcePts_eq_ok_iff {n : Nat} : ∀ {base : Nat} {xs : List Point},
    sourcePts s base n = .ok xs ↔ xs.length = n ∧ HoldsPts s base xs := by
  induction n with
  | zero =>
    intro base xs
    cases xs <;> simp [sourcePts, holdsPts_nil]
  | succ n ih =>
    intro base xs
    cases hb : s.pt base with
    | none =>
      cases xs with
      | nil => simp [sourcePts, hb, bind, Except.bind]
      | cons x xs => simp [sourcePts, hb, bind, Except.bind, holdsPts_cons]
    | some y =>
      cases hr : sourcePts s (base + 1) n with
      | error c =>
        cases xs with
        | nil => simp [sourcePts, hb, hr, bind, Except.bind]
        | cons x xs =>
          have := @ih (base + 1) xs
          simp only [hr, reduceCtorEq, false_iff] at this
          simp [sourcePts, hb, hr, bind, Except.bind, holdsPts_cons]
          tauto
      | ok ys =>
        cases xs with
        | nil => simp [sourcePts, hb, hr, bind, Except.bind]
        | cons x xs =>
          have := @ih (base + 1) xs
          simp only [hr, Except.ok.injEq] at this
          simp [sourcePts, hb, hr, bind, Except.bind, holdsPts_cons, this]
          tauto

/-- Reading the source points fails only with NULLREF, and exactly when one is invalid. -/
theorem sourcePts_eq_error_iff {n : Nat} {cause : FatalCause} : ∀ {base : Nat},
    sourcePts s base n = .error cause ↔ cause = .nullref ∧ MissingPt s base n := by
  induction n with
  | zero =>
    intro base
    simp [sourcePts, MissingPt]
  | succ n ih =>
    intro base
    have hm : MissingPt s base (n + 1) ↔ s.pt base = none ∨ MissingPt s (base + 1) n := by
      constructor
      · rintro ⟨j, hj, h⟩
        cases j with
        | zero => exact .inl h
        | succ j => exact .inr ⟨j, by omega, by rwa [Nat.add_assoc, Nat.add_comm 1 j]⟩
      · rintro (h | ⟨j, hj, h⟩)
        · exact ⟨0, by omega, h⟩
        · exact ⟨j + 1, by omega, by rwa [Nat.add_assoc, Nat.add_comm 1 j] at h⟩
    cases hb : s.pt base with
    | none => simp [sourcePts, hb, bind, Except.bind, hm, eq_comm]
    | some y =>
      cases hr : sourcePts s (base + 1) n with
      | error c =>
        have := @ih (base + 1)
        simp only [hr, Except.error.injEq] at this
        simp [sourcePts, hb, hr, bind, Except.bind, hm, this]
      | ok ys =>
        have := @ih (base + 1)
        simp only [hr, reduceCtorEq, false_iff] at this
        simp [sourcePts, hb, hr, bind, Except.bind, hm]
        tauto

/-! ### The frame of a command -/

theorem command_fatal {i : Instr} {body : Except FatalCause State} (h : s.phase = .fatal) :
    command i s body = .fault .fatalPhase := by simp [command, h]

theorem command_uninit {i : Instr} {body : Except FatalCause State} (h : s.phase = .uninit) :
    command i s body = .next (fatalState s .nullref i.word) := by simp [command, h, raiseFatal_eq_fatalState]

theorem command_ready_ok {i : Instr} {body : Except FatalCause State} {t : State} (h : s.phase = .ready)
    (hb : body = .ok t) : command i s body = .next t := by simp [command, h, hb]

theorem command_ready_error {i : Instr} {body : Except FatalCause State} {cause : FatalCause}
    (h : s.phase = .ready) (hb : body = .error cause) :
    command i s body = .next (fatalState s cause i.word) := by simp [command, h, hb, raiseFatal_eq_fatalState]

/-- Everything a command can do when it gives a next state: raise NULLREF in UNINIT, complete in READY, or
raise the cause of its first failed check in READY. -/
theorem command_next {i : Instr} {body : Except FatalCause State} {t : State}
    (h : command i s body = .next t) :
    (s.phase = .uninit ∧ t = fatalState s .nullref i.word) ∨
    (s.phase = .ready ∧ body = .ok t) ∨
    (s.phase = .ready ∧ ∃ cause, body = .error cause ∧ t = fatalState s cause i.word) := by
  unfold command at h
  cases hp : s.phase <;> simp only [hp] at h
  · simp only [Host.Outcome.next.injEq] at h
    exact .inl ⟨rfl, h.symm⟩
  · cases hb : body with
    | ok u =>
      simp only [hb, Host.Outcome.next.injEq] at h
      exact .inr (.inl ⟨rfl, by rw [h]⟩)
    | error c =>
      simp only [hb, Host.Outcome.next.injEq] at h
      exact .inr (.inr ⟨rfl, c, rfl, h.symm⟩)
  · cases h

/-- A command refuses nothing. -/
theorem command_ne_refused {i : Instr} {body : Except FatalCause State} {r : Refusal} :
    command i s body ≠ .refused r := by
  unfold command
  cases s.phase <;> cases body <;> simp

end Sys2Proof.Machine
end

