-- ==== Sys2Proof/Laws/Exec.lean ====
section
/-! SUPPORT. Everything an instruction can do when it gives a next state, said once: it raises a fatal error of
one of its causes, or it completes, and then the state it leaves is the one named here. Later proofs cite
`exec_next` and never unfold a meaning. -/

namespace Sys2Proof.Machine

/-- What `i` has done when it completes from `s` in `t`: its operands were there, its checks passed, and `t` is
the state its writes give. -/
def Completed (i : Instr) (s t : State) : Prop :=
  match i with
  | .init => (s.phase = .uninit ∧ t = s.buildTables) ∨ (s.phase = .ready ∧ t = s)
  | .bcreate ra n => s.phase = .ready ∧ t = s.putBlk ra.toNat (zeros n.toNat)
  | .bdestroy ra => s.phase = .ready ∧ (∃ a, s.blk ra.toNat = some a) ∧ t = s.freeBlk ra.toNat
  | .bget ra x => s.phase = .ready ∧ ∃ a, s.blk ra.toNat = some a ∧ x.toNat < a.length ∧
      t = s.putAcc (bitWord (bitAt a x.toNat))
  | .bset ra x v => s.phase = .ready ∧ ∃ a, s.blk ra.toNat = some a ∧ x.toNat < a.length ∧
      t = s.putBlk ra.toNat (withBit a x.toNat v)
  | .bxori ra x v => s.phase = .ready ∧ ∃ a, s.blk ra.toNat = some a ∧ x.toNat < a.length ∧
      t = s.putBlk ra.toNat (withBit a x.toNat (bitAt a x.toNat ^^ v))
  | .bcpbit ra x rb y => s.phase = .ready ∧ ∃ a, s.blk ra.toNat = some a ∧ ∃ b, s.blk rb.toNat = some b ∧
      x.toNat < a.length ∧ y.toNat < b.length ∧ t = s.putBlk ra.toNat (withBit a x.toNat (bitAt b y.toNat))
  | .bflip ra x => s.phase = .ready ∧ ∃ a, s.blk ra.toNat = some a ∧ x.toNat < a.length ∧
      t = s.putBlk ra.toNat (withBit a x.toNat (!bitAt a x.toNat))
  | .bcmp ra x rb y => s.phase = .ready ∧ ∃ a, s.blk ra.toNat = some a ∧ ∃ b, s.blk rb.toNat = some b ∧
      x.toNat < a.length ∧ y.toNat < b.length ∧ t = s.putAcc (bitWord (bitAt a x.toNat == bitAt b y.toNat))
  | .btoint ra => s.phase = .ready ∧ ∃ a, s.blk ra.toNat = some a ∧ t = s.putAcc (BitVec.ofNat 64 (toInteger a))
  | .bfromint ra value => s.phase = .ready ∧ ∃ a, s.blk ra.toNat = some a ∧
      t = s.putBlk ra.toNat (fromInteger a.length value.toNat)
  | .bfromstr ra chars => s.phase = .ready ∧ ∃ a, s.blk ra.toNat = some a ∧ chars.length ≤ a.length ∧
      t = s.putBlk ra.toNat (fromString a.length chars)
  | .bdivmod ra rb rc => s.phase = .ready ∧ ∃ d, s.blk rb.toNat = some d ∧ ∃ g, s.blk rc.toNat = some g ∧
      g.length ≠ 0 ∧ g.length - 1 ≤ d.length ∧ t = s.putBlk ra.toNat (gf2Rem d g)
  | .bxor ra rb => s.phase = .ready ∧ ∃ a, s.blk ra.toNat = some a ∧ ∃ b, s.blk rb.toNat = some b ∧
      a.length = b.length ∧ t = s.putBlk ra.toNat (xorBits a b)
  | .bmxor ra idxs => s.phase = .ready ∧ ∃ a, s.blk ra.toNat = some a ∧ (∀ k ∈ idxs, k.toNat < a.length) ∧
      t = s.putAcc (bitWord (xorAt a (idxs.map fun k => k.toNat)))
  | .bcopy ra x rb y n => s.phase = .ready ∧ ∃ a, s.blk ra.toNat = some a ∧ ∃ b, s.blk rb.toNat = some b ∧
      x.toNat + n.toNat ≤ a.length ∧ y.toNat + n.toNat ≤ b.length ∧
      t = s.putBlk ra.toNat (copyRange a x.toNat b y.toNat n.toNat)
  | .brechunk ra rb x n => s.phase = .ready ∧ rb.toNat + x.toNat ≤ 64 ∧ ∃ xs, xs.length = x.toNat ∧
      HoldsBlks s rb.toNat xs ∧ (∀ y ∈ xs, ∀ z ∈ xs, y.length = z.length) ∧ n.toNat ≠ 0 ∧
      ra.toNat + (rechunk xs n.toNat).length ≤ 64 ∧
      t = (s.putBlks ra.toNat (rechunk xs n.toNat)).arrayDone (rechunk xs n.toNat).length
  | .fenc ra rb sch x => s.phase = .ready ∧ ∃ f, FecScheme.ofId sch = some f ∧ rb.toNat + x.toNat ≤ 64 ∧
      ∃ xs, xs.length = x.toNat ∧ HoldsBlks s rb.toNat xs ∧
      (∀ len, f.encodeSize = some len → ∀ y ∈ xs, y.length = len) ∧ ra.toNat + x.toNat ≤ 64 ∧
      t = (s.putBlks ra.toNat (xs.map (fecEncode s.cfg.val.hamEnc s.genr f))).arrayDone x.toNat
  | .fdec ra rb sch x => s.phase = .ready ∧ ∃ f, FecScheme.ofId sch = some f ∧ rb.toNat + x.toNat ≤ 64 ∧
      ∃ xs, xs.length = x.toNat ∧ HoldsBlks s rb.toNat xs ∧
      (∀ len, f.decodeSize = some len → ∀ y ∈ xs, y.length = len) ∧ ra.toNat + x.toNat ≤ 64 ∧
      t = (s.putBlks ra.toNat (xs.map (fecDecode s.cfg.val.hamSyn s.genr s.st f))).arrayDone x.toNat
  | .fsynrd ra sch x => s.phase = .ready ∧ ∃ f, CrcScheme.ofId sch = some f ∧ x.toNat < 2 ^ f.parityBits ∧
      t = (s.putBlk ra.toNat (synLookup f.codeBits (s.st.get f) x.toNat).pat).putAcc
        (bitWord (synLookup f.codeBits (s.st.get f) x.toNat).present)
  | .fgenrd ra sch => s.phase = .ready ∧ ∃ f, CrcScheme.ofId sch = some f ∧ t = s.putBlk ra.toNat (s.genr.get f)
  | .mmod ra rb sch x => s.phase = .ready ∧ ∃ m, ModScheme.ofId sch = some m ∧ rb.toNat + x.toNat ≤ 64 ∧
      ∃ xs, xs.length = x.toNat ∧ HoldsBlks s rb.toNat xs ∧ (∀ y ∈ xs, y.length = m.bits) ∧
      ra.toNat + x.toNat ≤ 64 ∧
      t = (s.putPts ra.toNat (xs.map fun w => s.tablePoint m (toInteger w))).arrayDone x.toNat
  | .mdem ra rb sch x => s.phase = .ready ∧ ∃ m, ModScheme.ofId sch = some m ∧ rb.toNat + x.toNat ≤ 64 ∧
      ∃ ts, ts.length = x.toNat ∧ HoldsPts s rb.toNat ts ∧ ra.toNat + x.toNat ≤ 64 ∧
      t = (s.putBlks ra.toNat (ts.map fun p => fromInteger m.bits (s.demodulate m p))).arrayDone x.toNat
  | .pset ra i q => s.phase = .ready ∧
      t = s.putPt ra.toNat { I := sextCoord s.cfg.val.coordW i, Q := sextCoord s.cfg.val.coordW q }
  | .pget ra y => s.phase = .ready ∧ ∃ p, s.pt ra.toNat = some p ∧
      t = s.putAcc (coordPattern s.cfg.val.coordW (match y with | .I => p.I | .Q => p.Q))
  | .mtabrd ra sch x => s.phase = .ready ∧ ∃ m, ModScheme.ofId sch = some m ∧ x.toNat < m.volume ∧
      t = s.putPt ra.toNat (s.tablePoint m x.toNat)

/-- What a command does instead of completing: NULLREF in UNINIT, or the cause of a check of its own in READY. -/
def Failed (i : Instr) (s t : State) : Prop :=
  i ≠ .init ∧ ((s.phase = .uninit ∧ t = fatalState s .nullref i.word) ∨
    (s.phase = .ready ∧ ∃ cause ∈ causes i, t = fatalState s cause i.word))

/-- From the frame of a command to the two outcomes. -/
theorem next_of_command {i : Instr} {s t : State} {body : Except FatalCause State} (hi : i ≠ .init)
    (ho : ∀ u, body = .ok u → s.phase = .ready → Completed i s u)
    (he : ∀ c, body = .error c → c ∈ causes i)
    (h : command i s body = .next t) : Failed i s t ∨ Completed i s t := by
  rcases command_next h with ⟨hp, ht⟩ | ⟨hp, hb⟩ | ⟨hp, c, hb, ht⟩
  · exact .inl ⟨hi, .inl ⟨hp, ht⟩⟩
  · exact .inr (ho t hb hp)
  · exact .inl ⟨hi, .inr ⟨hp, c, he c hb, ht⟩⟩

/-- Everything an instruction can do when it gives a next state. -/
theorem exec_next {i : Instr} {s t : State} (h : exec i s = .next t) : Failed i s t ∨ Completed i s t := by
  cases i
  case init =>
    simp only [exec, execInit] at h
    cases hp : s.phase <;> simp only [hp] at h
    · exact .inr (.inl ⟨hp, (Host.Outcome.next.inj h).symm⟩)
    · exact .inr (.inr ⟨hp, (Host.Outcome.next.inj h).symm⟩)
    · cases h
  case bcreate ra n =>
    refine next_of_command (by simp) ?_ ?_ h
    · intro u hu hp
      simp only [bind_eq_ok_iff, Except.ok.injEq, exists_and_right] at hu
      exact ⟨hp, hu.2.symm⟩
    · intro c hc
      have hn : n.toNat ≤ MAXLEN := Nat.lt_succ_iff.mp n.isLt
      simp [bind_eq_error_iff, hn] at hc
  case pset ra i q =>
    refine next_of_command (i := .pset ra i q)
      (body := .ok (s.putPt ra.toNat { I := sextCoord s.cfg.val.coordW i, Q := sextCoord s.cfg.val.coordW q }))
      (by simp) (fun u hu hp => ⟨hp, (Except.ok.inj hu).symm⟩) (fun c hc => by cases hc) h
  all_goals
    refine next_of_command (by simp) ?_ ?_ h
    · intro u hu hp
      simp only [bind_eq_ok_iff, needBlk_reg, needPt_reg, present_eq_ok_iff, needIdx_eq_ok_iff, require_eq_ok_iff,
        needArray_eq_ok_iff, sourceBlks_eq_ok_iff, sourcePts_eq_ok_iff, needSize_eq_ok_iff, needUniform_eq_ok_iff,
        needFec, needCrc, needMod, codeArray, Except.ok.injEq, exists_const, decide_eq_true_eq, beq_iff_eq,
        List.all_eq_true, Option.some.injEq] at hu
      simp only [Completed]
      grind
    · intro c hc
      simp only [bind_eq_error_iff, needBlk_reg, needPt_reg, present_eq_error_iff, needIdx_eq_error_iff,
        require_eq_error_iff, needArray_eq_error_iff, sourceBlks_eq_error_iff, sourcePts_eq_error_iff,
        needSize_eq_error_iff, needUniform_eq_error_iff, needFec, needCrc, needMod, codeArray, reduceCtorEq,
        and_false, exists_false, or_false] at hc
      simp only [causes]
      grind

end Sys2Proof.Machine
end

