-- ==== Sys2Proof/Laws/PerInstr.lean ====
section
/-! SUPPORT. Families of statements about the commands as syntax, one lemma per constructor of `Instr`. -/

namespace Sys2Proof.Laws.PayloadLength

/-- The length rule (`30` R65), applied to the command word of a well-formed command, gives the number of its
payload words. -/
def Statement (i : Instr) : Prop := i.wf = true → payloadWords i.word = i.payload.length

/-- The length rule on a packed word depends on the opcode and on field `n` alone. -/
theorem payloadWords_packWord (op : BitVec 8) (f : Fields) :
    payloadWords (packWord op f) =
      match op.toNat with
      | 0x19 => 1
      | 0x1A => (f.n.toNat + 7) / 8
      | 0x1D => (f.n.toNat + 3) / 4
      | 0x32 => 2
      | _ => 0 := by
  rw [payloadWords, fieldOp_packWord, fieldN_packWord] <;> rfl

theorem init : Statement .init := fun _ => payloadWords_packWord _ _

theorem bcreate (ra : RegIx) (n : Num12) : Statement (.bcreate ra n) := fun _ => payloadWords_packWord _ _

theorem bdestroy (ra : RegIx) : Statement (.bdestroy ra) := fun _ => payloadWords_packWord _ _

theorem bget (ra : RegIx) (x : Num12) : Statement (.bget ra x) := fun _ => payloadWords_packWord _ _

theorem bset (ra : RegIx) (x : Num12) (v : Bool) : Statement (.bset ra x v) := fun _ => payloadWords_packWord _ _

theorem bxori (ra : RegIx) (x : Num12) (v : Bool) : Statement (.bxori ra x v) := fun _ => payloadWords_packWord _ _

theorem bcpbit (ra : RegIx) (x : Num12) (rb : RegIx) (y : Num12) : Statement (.bcpbit ra x rb y) := fun _ => payloadWords_packWord _ _

theorem bflip (ra : RegIx) (x : Num12) : Statement (.bflip ra x) := fun _ => payloadWords_packWord _ _

theorem bcmp (ra : RegIx) (x : Num12) (rb : RegIx) (y : Num12) : Statement (.bcmp ra x rb y) := fun _ => payloadWords_packWord _ _

theorem btoint (ra : RegIx) : Statement (.btoint ra) := fun _ => payloadWords_packWord _ _

theorem bfromint (ra : RegIx) (value : Word) : Statement (.bfromint ra value) := fun _ => payloadWords_packWord _ _

theorem bfromstr (ra : RegIx) (chars : List Byte) : Statement (.bfromstr ra chars) := by
  intro h
  have hl : chars.length ≤ 4095 := of_decide_eq_true h
  rw [Instr.word, payloadWords_packWord]
  have hm : chars.length % 4096 = chars.length := Nat.mod_eq_of_lt (by omega)
  simp [Instr.opcode, Opcode.byte, Instr.fields, Instr.payload, hm]

theorem bdivmod (ra : RegIx) (rb : RegIx) (rc : RegIx) : Statement (.bdivmod ra rb rc) := fun _ => payloadWords_packWord _ _

theorem bxor (ra : RegIx) (rb : RegIx) : Statement (.bxor ra rb) := fun _ => payloadWords_packWord _ _

theorem bmxor (ra : RegIx) (idxs : List Lane) : Statement (.bmxor ra idxs) := by
  intro h
  have hl : idxs.length ≤ 4095 := of_decide_eq_true h
  rw [Instr.word, payloadWords_packWord]
  have hm : idxs.length % 4096 = idxs.length := Nat.mod_eq_of_lt (by omega)
  simp [Instr.opcode, Opcode.byte, Instr.fields, Instr.payload, hm]

theorem bcopy (ra : RegIx) (x : Num12) (rb : RegIx) (y : Num12) (n : Num12) : Statement (.bcopy ra x rb y n) := fun _ => payloadWords_packWord _ _

theorem brechunk (ra : RegIx) (rb : RegIx) (x : Num12) (n : Num12) : Statement (.brechunk ra rb x n) := fun _ => payloadWords_packWord _ _

theorem fenc (ra : RegIx) (rb : RegIx) (sch : SchemeId) (x : Num12) : Statement (.fenc ra rb sch x) := fun _ => payloadWords_packWord _ _

theorem fdec (ra : RegIx) (rb : RegIx) (sch : SchemeId) (x : Num12) : Statement (.fdec ra rb sch x) := fun _ => payloadWords_packWord _ _

theorem fsynrd (ra : RegIx) (sch : SchemeId) (x : Num12) : Statement (.fsynrd ra sch x) := fun _ => payloadWords_packWord _ _

theorem fgenrd (ra : RegIx) (sch : SchemeId) : Statement (.fgenrd ra sch) := fun _ => payloadWords_packWord _ _

theorem mmod (ra : RegIx) (rb : RegIx) (sch : SchemeId) (x : Num12) : Statement (.mmod ra rb sch x) := fun _ => payloadWords_packWord _ _

theorem mdem (ra : RegIx) (rb : RegIx) (sch : SchemeId) (x : Num12) : Statement (.mdem ra rb sch x) := fun _ => payloadWords_packWord _ _

theorem pset (ra : RegIx) (i : Word) (q : Word) : Statement (.pset ra i q) := fun _ => payloadWords_packWord _ _

theorem pget (ra : RegIx) (y : Comp) : Statement (.pget ra y) := fun _ => payloadWords_packWord _ _

theorem mtabrd (ra : RegIx) (sch : SchemeId) (x : Num12) : Statement (.mtabrd ra sch x) := fun _ => payloadWords_packWord _ _

end Sys2Proof.Laws.PayloadLength
end

