-- ==== Sys2Proof/Tests/Slice0.lean ====
section
/-! SUPPORT. Small tests: ill-formed commands are refused, a word of every command written out from the spec's
encoding decodes to it, one or two single steps per command with the values of spec/95_test_vectors.md, and for
every obligation with hypotheses a state and operands that meet them, at the boundaries of its clauses. -/

namespace Sys2Proof.Tests

set_option Elab.async false

open Sys2Proof Sys2Proof.Machine

/-! ## Well-formedness: a payload list longer than field `n` can say has no encoding -/

theorem test_wf_bfromstr_refuses_4096 : (Instr.bfromstr 0 (List.replicate 4096 0x31)).wf = false := by
  decide +kernel

theorem test_wf_bfromstr_takes_4095 : (Instr.bfromstr 0 (List.replicate 4095 0x31)).wf = true := by
  decide +kernel

theorem test_wf_bmxor_refuses_4096 : (Instr.bmxor 0 (List.replicate 4096 0)).wf = false := by
  decide +kernel

theorem test_wf_bmxor_takes_4095 : (Instr.bmxor 0 (List.replicate 4095 0)).wf = true := by
  decide +kernel

/-! ## Decoding: words of `95` V-EN1, V-EN2, V-BB and of the examples in the command rules -/

theorem test_decode_init : decode [0x0100000000000000] = .ok (.init, []) := rfl
theorem test_decode_bcreate : decode [0x10FC000000000FFF] = .ok (.bcreate 63 4095, []) := rfl
theorem test_decode_bdestroy : decode [0x1114000000000000] = .ok (.bdestroy 5, []) := rfl
theorem test_decode_bget : decode [0x1204000002000000] = .ok (.bget 1 2, []) := rfl
theorem test_decode_bset : decode [0x1304000000001000] = .ok (.bset 1 0 true, []) := rfl
theorem test_decode_bxori : decode [0x1404000003000000] = .ok (.bxori 1 3 false, []) := rfl
theorem test_decode_bcpbit : decode [0x1508100001003000] = .ok (.bcpbit 2 1 1 3, []) := rfl
theorem test_decode_bflip : decode [0x1604000002000000] = .ok (.bflip 1 2, []) := rfl
theorem test_decode_bcmp : decode [0x1704200003001000] = .ok (.bcmp 1 3 2 1, []) := rfl
theorem test_decode_btoint : decode [0x1804000000000000] = .ok (.btoint 1, []) := rfl
theorem test_decode_bfromint :
    decode [0x1904000000000000, 0x00000000000001D9] = .ok (.bfromint 1 0x1D9, []) := rfl
theorem test_decode_bfromstr :
    decode [0x1A00000000000009, 0x3130313130303131, 0x3100000000000000]
      = .ok (.bfromstr 0 [0x31, 0x30, 0x31, 0x31, 0x30, 0x30, 0x31, 0x31, 0x31], []) := rfl
theorem test_decode_bdivmod : decode [0x1B54850000000000] = .ok (.bdivmod 21 8 20, []) := rfl
theorem test_decode_bxor : decode [0x1C08100000000000] = .ok (.bxor 2 1, []) := rfl
theorem test_decode_bmxor :
    decode [0x1D00000000000005, 0x0000000200020003, 0x0001000000000000] = .ok (.bmxor 0 [0, 2, 2, 3, 1], []) := rfl
theorem test_decode_bcopy : decode [0x1E04300002005004] = .ok (.bcopy 1 2 3 5 4, []) := rfl
theorem test_decode_brechunk : decode [0x1F10000003000004] = .ok (.brechunk 4 0 3 4, []) := rfl
theorem test_decode_fenc : decode [0x2020010002000000] = .ok (.fenc 8 0 4 2, []) := rfl
theorem test_decode_fdec : decode [0x2124804001000000] = .ok (.fdec 9 8 1 1, []) := rfl
theorem test_decode_fsynrd : decode [0x220001000B000000] = .ok (.fsynrd 0 4 11, []) := rfl
theorem test_decode_fgenrd : decode [0x2300008000000000] = .ok (.fgenrd 0 2, []) := rfl
theorem test_decode_mmod : decode [0x300100C026000000] = .ok (.mmod 0 16 3 38, []) := rfl
theorem test_decode_mdem : decode [0x310040C002000000] = .ok (.mdem 0 4 3 2, []) := rfl
theorem test_decode_pset :
    decode [0x320C000000000000, 0x00000000FFFF0000, 0x0000000000002328] = .ok (.pset 3 0xFFFF0000 9000, []) := rfl
theorem test_decode_pget : decode [0x330C000000001000] = .ok (.pget 3 .Q, []) := rfl
theorem test_decode_mtabrd : decode [0x340002C005000000] = .ok (.mtabrd 0 11 5, []) := rfl

/-- The all-zero word is illegal (R67 a), and so are a set `z` (b), an unused field (c) and `y = 2` (d). -/
theorem test_illegal_words :
    decodeCommand 0 [] = .error .unassignedOpcode ∧
    decodeCommand 0x0100001000000000 [] = .error .reservedZ ∧
    decodeCommand 0x1804000000000001 [] = .error .unusedField ∧
    decodeCommand 0x1304000000002000 [] = .error .yAboveOne := ⟨rfl, rfl, rfl, rfl⟩

/-- A payload word that the table gives no bits is 0; one that it gives stands above the command word. -/
theorem test_decodeTableWord :
    decodeTableWord 64 0x1204000002000000 = some (.bget 1 2) ∧
    decodeTableWord 64 0x3204000000000000 = some (.pset 1 0 0) ∧
    decodeTableWord 128 0x00000000000001D91904000000000000 = some (.bfromint 1 0x1D9) := ⟨rfl, rfl, rfl⟩

/-! ## Helpers: what a step leaves -/

/-- The state after a command that completes or raises. -/
def after (i : Instr) (s : State) : State :=
  match exec i s with
  | .next t => t
  | _ => s

/-- The state after one step. -/
def stepped (s : State) : State :=
  match step s with
  | .next t => t
  | _ => s

/-- READY with nothing allocated and no table entry: enough for the commands that read no table. -/
def ready : State := { State.reset with phase := .ready }

/-- READY as `INIT` leaves it after reset. -/
def built : State := State.reset.buildTables

/-- A block from a string of binary digits. -/
def bits (s : String) : Bits := s.toList.map fun c => c == '1'

/-- `B[0] = 1011`, `B[1] = 1001`, `B[2] = 0100`, `B[5]` empty, `P[3]` a point. -/
def demo : State :=
  ((((ready.putBlk 0 (bits "1011")).putBlk 1 (bits "1001")).putBlk 2 (bits "0100")).putBlk 5 []).putPt 3
    { I := -65536, Q := 9000 }

/-- The cause that a step recorded. -/
def raised (s : State) : BitVec 3 × Phase := (s.fcause, s.phase)

/-! ## Single steps (values from `95` and from the examples of the command rules) -/

theorem test_init : (stepped (State.reset.withFetchWord 64 0x0100000000000000)).phase = .ready := rfl
theorem test_uninit_nullref : raised (after (.btoint 0) State.reset) = (3, .fatal) := by decide +kernel
theorem test_bcreate : (after (.bcreate 63 7) demo).blk 63 = some (bits "0000000") := by decide +kernel
theorem test_bdestroy : (after (.bdestroy 5) demo).blk 5 = none := by decide +kernel
theorem test_bdestroy_twice : raised (after (.bdestroy 5) (after (.bdestroy 5) demo)) = (3, .fatal) := by
  decide +kernel
theorem test_bget : (after (.bget 0 2) demo).acc = 1 ∧ (after (.bget 0 1) demo).acc = 0 := by decide +kernel
theorem test_bget_range : raised (after (.bget 0 4) demo) = (4, .fatal) := by decide +kernel
theorem test_bset : (after (.bset 2 3 true) demo).blk 2 = some (bits "0101") := by decide +kernel
theorem test_bxori : (after (.bxori 1 3 true) demo).blk 1 = some (bits "1000") ∧
    (after (.bxori 1 3 false) demo).blk 1 = some (bits "1001") := by decide +kernel
theorem test_bcpbit : (after (.bcpbit 2 0 1 3) demo).blk 2 = some (bits "1100") := by decide +kernel
theorem test_bflip : (after (.bflip 1 2) demo).blk 1 = some (bits "1011") := by decide +kernel
theorem test_bcmp : (after (.bcmp 1 3 2 1) demo).acc = 1 ∧ (after (.bcmp 1 1 2 1) demo).acc = 0 := by
  decide +kernel
theorem test_btoint : (after (.btoint 1) demo).acc = 9 ∧ (after (.btoint 5) demo).acc = 0 := by decide +kernel
theorem test_bfromint : (after (.bfromint 1 0x1D9) demo).blk 1 = some (bits "1001") := by decide +kernel
theorem test_bfromstr : (after (.bfromstr 0 [0x31, 0x32, 0x31]) demo).blk 0 = some (bits "1010") := by
  decide +kernel
theorem test_bdivmod :
    gf2Rem (bits "101100100000000") (bits "111010001") = bits "00011110" ∧
    gf2Rem (bits "11111111") (bits "0111") = bits "000" ∧
    (after (.bdivmod 7 1 0) demo).blk 7 = some (bits "010") := by decide +kernel
theorem test_bxor : (after (.bxor 2 1) demo).blk 2 = some (bits "1101") := by decide +kernel
theorem test_bmxor : (after (.bmxor 0 [0, 2, 2, 3, 1]) demo).acc = 0 ∧
    (after (.bmxor 0 [0, 1]) demo).acc = 1 := by decide +kernel
/-- Overlapping ranges copy the old source bits (`95` V-BB row 19). -/
theorem test_bcopy :
    (after (.bcopy 4 1 4 0 7) (demo.putBlk 4 (bits "10110000"))).blk 4 = some (bits "11011000") := by
  decide +kernel
theorem test_brechunk :
    let t := after (.brechunk 4 0 1 3) (demo.putBlk 0 (bits "1011001"))
    t.blk 4 = some (bits "101") ∧ t.blk 5 = some (bits "100") ∧ t.blk 6 = some (bits "100") ∧ t.acc = 3 := by
  decide +kernel
theorem test_brechunk_nodata :
    let t := after (.brechunk 10 5 1 3) demo
    t.blk 10 = none ∧ t.acc = 0 ∧ t.nodata = true := by decide +kernel
theorem test_fenc : (after (.fenc 8 0 1 1) demo).blk 8 = some (bits "1011010") := by decide +kernel
theorem test_fenc_bch157 :
    (after (.fenc 8 0 4 1) (built.putBlk 0 (bits "1011000"))).blk 8 = some (bits "101100011001111") := by
  decide +kernel
theorem test_fdec : (after (.fdec 9 8 1 1) (demo.putBlk 8 (bits "0011010"))).blk 9 = some (bits "1011") := by
  decide +kernel
theorem test_fsynrd :
    let t := after (.fsynrd 0 2 1) built
    t.blk 0 = some (bits "00000001") ∧ t.acc = 1 := by decide +kernel
theorem test_fgenrd : (after (.fgenrd 0 2) built).blk 0 = some (bits "1011") := by decide +kernel
theorem test_mmod :
    (after (.mmod 0 0 3 1) (built.putBlk 0 (bits "11"))).pt 0 = some { I := -65536, Q := 0 } := by decide +kernel
/-- The early exit takes an entry that is not the nearest (`95` V-DM6). -/
theorem test_mdem :
    (after (.mdem 0 0 4 1) (built.putPt 0 { I := 55937, Q := 23170 })).blk 0 = some (bits "000") := by
  decide +kernel
theorem test_pset :
    (after (.pset 3 0xFFFF0000 0x2328) demo).pt 3 = some { I := -65536, Q := 9000 } := by decide +kernel
theorem test_pget : (after (.pget 3 .I) demo).acc = 0x00000000FFFF0000 ∧
    (after (.pget 3 .Q) demo).acc = 0x2328 := by decide +kernel
theorem test_mtabrd : (after (.mtabrd 0 11 5) built).pt 0 = some { I := -20724, Q := -20724 } := by decide +kernel

/-! ## Witnesses: for each statement with hypotheses, states and operands that meet them, clause by clause -/

/-- The state after reset, `INIT` presented. -/
def start : State := { State.reset with port := [0x0100000000000000] }

theorem reset_blk (c : LegalConfig) (q : List Word) (r : Nat) : (State.afterReset c q).blk r = none := by
  by_cases h : r < 64 <;> simp [State.blk, State.afterReset, h]

theorem reset_pt (c : LegalConfig) (q : List Word) (k : Nat) : (State.afterReset c q).pt k = none := by
  by_cases h : k < 64 <;> simp [State.pt, State.afterReset, h]

/-- A state of a run meets the invariant, and a step takes it to READY. -/
theorem witness_StepKeepsTheInvariant : start.Inv ∧ ∃ t, step start = .next t ∧ t.phase = .ready :=
  ⟨{ blocks := fun r x h => by rw [show start.blk r = none from reset_blk _ _ r] at h; cases h
     points := fun k t h => by rw [show start.pt k = none from reset_pt _ _ k] at h; cases h
     tables := fun h => by cases h
     diagnostic := ⟨fun h => by (cases h), fun _ => ⟨rfl, rfl⟩⟩
     opened := fun w payload rest h => by cases h }, _, rfl, rfl⟩

/-- READY states meet it too: a block and a point are held and the tables are those that `INIT` builds. -/
theorem witness_StepKeepsTheInvariant_ready : built.phase = .ready ∧ built.tablesBuilt := ⟨rfl, rfl, rfl, rfl, rfl⟩

theorem witness_DecodeOfEncodeGivesTheCommand :
    (Instr.pset 63 0 1).wf = true ∧ (Instr.bfromstr 0 []).wf = true ∧ (Instr.bmxor 1 [65535]).wf = true := by
  decide +kernel

/-- Both directions: a word of the table, and a word with its reserved bit set. -/
theorem witness_CommandsAreTheTableRows :
    payloadWords 0x1304000000001000 = ([] : List Word).length ∧ matchesTable 0x1304000000001000 ∧
    ¬ matchesTable 0x1304000000002000 ∧ decodeCommand 0x1304000000001000 [] = .ok (.bset 1 0 true) := by
  refine ⟨rfl, ?_, ?_, rfl⟩ <;> (unfold matchesTable; decide +kernel)

theorem witness_PayloadLanesAreReadMostSignificantFirst :
    decodeCommand 0x1900000000000000 [7] = .ok (.bfromint 0 7) ∧
    decodeCommand 0x3200000000000000 [7, 8] = .ok (.pset 0 7 8) ∧
    decodeCommand 0x1A00000000000009 [0x3130313030313131, 0x3200000000000000]
      = .ok (.bfromstr 0 [0x31, 0x30, 0x31, 0x30, 0x30, 0x31, 0x31, 0x31, 0x32]) ∧
    decodeCommand 0x1D00000000000005 [0x0000000200020003, 0x0001000000000000]
      = .ok (.bmxor 0 [0, 2, 2, 3, 1]) := ⟨rfl, rfl, rfl, rfl⟩

/-- An illegal word with its payload in UNINIT, and the identifiers next to the legal ones in READY. -/
theorem witness_IllegalWordsRaiseBadenum :
    let s : State := { State.reset with port := [0x1904000000000001, 7, 0] }
    s.resetIn = false ∧ s.phase ≠ .fatal ∧ s.opened ++ s.port = 0x1904000000000001 :: ([7] ++ [0]) ∧
    [(7 : Word)].length = payloadWords 0x1904000000000001 ∧ ¬ matchesTable 0x1904000000000001 ∧
    ready.phase = .ready ∧ 4 < (5 : SchemeId).toNat ∧ (1 : SchemeId).toNat < 2 ∧ 16 < (17 : SchemeId).toNat := by
  refine ⟨rfl, by decide, rfl, rfl, ?_, rfl, by decide, by decide, by decide⟩
  unfold matchesTable
  decide +kernel

theorem witness_StepRunsTheDecodedCommand :
    start.resetIn = false ∧ start.phase ≠ .fatal ∧ decode (start.opened ++ start.port) = .ok (.init, []) :=
  ⟨rfl, by decide, rfl⟩

theorem witness_PartDeliveryWaitsAndLosesNothing :
    State.reset.resetIn = false ∧ State.reset.phase ≠ .fatal ∧ State.reset.opened ++ [] = [] ∧
    decode (State.reset.opened ++ [0x3204000000000000, 7]) = .error .payloadMissing := ⟨rfl, by decide, rfl, rfl⟩

/-- A FATAL state, with and without the reset input. -/
theorem witness_FatalExecutesNothing :
    (after (.bget 0 0) State.reset).phase = .fatal ∧ (after (.bget 0 0) State.reset).resetIn = false ∧
    ({ after (.bget 0 0) State.reset with resetIn := true } : State).resetIn = true := ⟨rfl, rfl, rfl⟩

/-- Each disjunct of the phase rule is taken by some step. -/
theorem witness_PhaseMovesOnlyAsListed :
    step start = .next (stepped start) ∧ (stepped start).phase = .ready ∧
    step { start with resetIn := true } = .next (stepped { start with resetIn := true }) ∧
    step { State.reset with port := [0] } = .next (stepped { State.reset with port := [0] }) ∧
    (stepped { State.reset with port := [0] }).phase = .fatal := ⟨rfl, rfl, rfl, rfl, rfl⟩

theorem witness_FatalErrorsArePreciseWithListedCauses :
    exec (.bget 0 0) State.reset = .next (after (.bget 0 0) State.reset) ∧
    (after (.bget 0 0) State.reset).phase = .fatal ∧
    exec (.bget 0 4) demo = .next (after (.bget 0 4) demo) ∧ (after (.bget 0 4) demo).phase = .fatal :=
  ⟨rfl, rfl, rfl, by decide +kernel⟩

/-- Commands that write neither `ACC` nor `NODATA`, nor any life of a register, complete. -/
theorem witness_frames :
    exec (.bflip 0 0) demo = .next (after (.bflip 0 0) demo) ∧ (after (.bflip 0 0) demo).phase = .ready ∧
    writesAcc (.bflip 0 0) = false ∧ writesNodata (.bflip 0 0) = false ∧ createsOrDestroys (.bflip 0 0) = false ∧
    writesPoints (.bflip 0 0) = false ∧ demo.pt 3 ≠ none :=
  ⟨rfl, by decide +kernel, rfl, rfl, rfl, rfl, by decide +kernel⟩

/-- A command that writes `ACC` and `NODATA` completes, from a state where they are neither 0. -/
theorem witness_AccAndNodataAreNeverRead :
    let s : State := { demo with acc := 5, nodata := true }
    exec (.brechunk 4 0 1 3) s = .next (after (.brechunk 4 0 1 3) s) ∧ (after (.brechunk 4 0 1 3) s).acc = 2 := by
  refine ⟨rfl, ?_⟩
  decide +kernel

/-- The hypotheses of the single-register commands: an unallocated register, an index one past the last bit and
the last bit, a block of length 0, two blocks of one length and of two. -/
theorem witness_bit_commands :
    State.reset.phase = .uninit ∧ demo.phase = .ready ∧ demo.blk 63 = none ∧
    demo.blk 0 = some (bits "1011") ∧ demo.blk 5 = some [] ∧ demo.blk 1 = some (bits "1001") ∧
    (bits "1011").length ≤ (4 : Num12).toNat ∧ (bits "1011")[(3 : Num12).toNat]? = some true ∧
    ([] : Bits).length ≤ (0 : Num12).toNat ∧ (bits "1011").length = (bits "1001").length ∧
    (bits "1011").length ≠ ([] : Bits).length := by decide +kernel

/-- `BFROMSTR` and `BMXOR`: a string of the block's length and one longer; an index at the last bit and past it. -/
theorem witness_list_commands :
    (bits "1011").length < [(0x31 : Byte), 0x31, 0x31, 0x31, 0x31].length ∧
    [(0x31 : Byte), 0x31, 0x31, 0x31].length ≤ (bits "1011").length ∧
    (∃ k ∈ [(3 : Lane), 4], (bits "1011").length ≤ k.toNat) ∧ (∀ k ∈ [(3 : Lane), 0, 3], k.toNat < (bits "1011").length) := by
  refine ⟨by decide, by decide, ⟨4, by decide, by decide⟩, fun k hk => ?_⟩
  simp only [List.mem_cons, List.not_mem_nil, or_false] at hk
  rcases hk with rfl | rfl | rfl <;> decide

/-- `BDIVMOD`: an empty divisor, a dividend too short by one, and one just long enough. -/
theorem witness_BdivmodWritesTheRemainder :
    ([] : Bits).length = 0 ∧ (bits "10").length < (bits "1011").length - 1 ∧ 0 < (bits "1011").length ∧
    (bits "1011").length - 1 ≤ (bits "100").length := by decide

/-- `BCOPY`: ranges that end at the last bit, and one bit past it. -/
theorem witness_BcopyCopiesTheRange :
    (bits "1011").length < (2 : Num12).toNat + (3 : Num12).toNat ∧
    (2 : Num12).toNat + (2 : Num12).toNat ≤ (bits "1011").length ∧ (0 : Num12).toNat + (4 : Num12).toNat ≤ 4 := by
  decide

/-- Array sources: in range up to register 63 and one past it, a missing register, held blocks, no block. -/
theorem witness_array_sources :
    64 < (63 : RegIx).toNat + (2 : Num12).toNat ∧ (63 : RegIx).toNat + (1 : Num12).toNat ≤ 64 ∧
    MissingBlk demo 2 2 ∧ HoldsBlks demo 0 [bits "1011", bits "1001", bits "0100"] ∧ HoldsBlks demo 63 [] ∧
    MissingPt demo 3 2 ∧ HoldsPts demo 3 [{ I := -65536, Q := 9000 }] ∧ HoldsPts demo 63 [] := by
  refine ⟨by decide, by decide, ⟨1, by decide, by decide +kernel⟩, ?_, ?_, ⟨1, by decide, by decide +kernel⟩, ?_, ?_⟩ <;>
    (simp only [HoldsBlks, HoldsPts]; decide +kernel)

/-- `BRECHUNK`: lengths that differ and that agree, a target of 0 and of 5, a result that fits at the last
registers and one that does not. -/
theorem witness_BrechunkCutsTheStream :
    (∃ u ∈ [bits "1011", []], ∃ v ∈ [bits "1011", []], u.length ≠ v.length) ∧
    (∀ u ∈ [bits "1011", bits "1001"], ∀ v ∈ [bits "1011", bits "1001"], u.length = v.length) ∧
    (0 : Num12) = 0 ∧ (5 : Num12) ≠ 0 ∧
    64 < (63 : RegIx).toNat + (literalRechunk [bits "1011", bits "1001"] 5).length ∧
    (62 : RegIx).toNat + (literalRechunk [bits "1011", bits "1001"] 5).length ≤ 64 := by decide +kernel

/-- Scheme sizes: NONE has none, the others have one that a block meets or misses; identifiers at both ends. -/
theorem witness_scheme_sizes :
    FecScheme.ofId 0 = some .noCode ∧ FecScheme.ofId 4 = some (.crc .bch157) ∧
    FecScheme.encodeSize .noCode = none ∧ FecScheme.encodeSize .hamming74 = some (bits "1011").length ∧
    FecScheme.decodeSize .hamming74 ≠ some (bits "1011").length ∧ FecScheme.decodeSize .hamming74 = some 7 ∧
    CrcScheme.ofId 2 = some .cyclic85 ∧ CrcScheme.ofId 4 = some .bch157 ∧ ModScheme.ofId 0 = some .ask ∧
    ModScheme.ofId 16 = some .qam4096 ∧ (bits "1").length = ModScheme.bits .ask ∧
    (bits "10").length ≠ ModScheme.bits .ask := by decide

/-! The completion clause of each array command and of each table read: all its hypotheses on one state. -/

theorem witness_BrechunkCutsTheStream_completes :
    demo.phase = .ready ∧ (0 : RegIx).toNat + (3 : Num12).toNat ≤ 64 ∧
    HoldsBlks demo (0 : RegIx).toNat [bits "1011", bits "1001", bits "0100"] ∧
    (∀ u ∈ [bits "1011", bits "1001", bits "0100"], ∀ v ∈ [bits "1011", bits "1001", bits "0100"],
      u.length = v.length) ∧ (5 : Num12) ≠ 0 ∧
    (61 : RegIx).toNat + (literalRechunk [bits "1011", bits "1001", bits "0100"] (5 : Num12).toNat).length ≤ 64 := by
  simp only [HoldsBlks]
  decide +kernel

theorem witness_FencEncodesEveryBlock_completes :
    demo.phase = .ready ∧ FecScheme.ofId 1 = some .hamming74 ∧ (0 : RegIx).toNat + (3 : Num12).toNat ≤ 64 ∧
    HoldsBlks demo (0 : RegIx).toNat [bits "1011", bits "1001", bits "0100"] ∧
    (∀ k, FecScheme.encodeSize .hamming74 = some k → ∀ u ∈ [bits "1011", bits "1001", bits "0100"], u.length = k) ∧
    (61 : RegIx).toNat + (3 : Num12).toNat ≤ 64 := by
  simp only [HoldsBlks]
  decide +kernel

theorem witness_FdecDecodesEveryBlock_completes :
    let s := demo.putBlk 63 (bits "0011010")
    s.phase = .ready ∧ FecScheme.ofId 1 = some .hamming74 ∧ (63 : RegIx).toNat + (1 : Num12).toNat ≤ 64 ∧
    HoldsBlks s (63 : RegIx).toNat [bits "0011010"] ∧
    (∀ k, FecScheme.decodeSize .hamming74 = some k → ∀ u ∈ [bits "0011010"], u.length = k) ∧
    (63 : RegIx).toNat + (1 : Num12).toNat ≤ 64 := by
  simp only [HoldsBlks]
  decide +kernel

theorem witness_MmodLooksUpEveryPoint_completes :
    let s := built.putBlk 63 (bits "11")
    let ts : List Point := [{ I := -65536, Q := 0 }]
    s.phase = .ready ∧ ModScheme.ofId 3 = some .qpsk ∧ (63 : RegIx).toNat + (1 : Num12).toNat ≤ 64 ∧
    HoldsBlks s (63 : RegIx).toNat [bits "11"] ∧ (bits "11").length = ModScheme.bits .qpsk ∧
    ts[0]? = (s.ct.get (ModScheme.id .qpsk))[toInteger (bits "11")]? := by
  simp only [HoldsBlks]
  decide +kernel

theorem witness_MdemSpellsEveryCodeword_completes :
    let s := built.putPt 63 { I := -60000, Q := 9000 }
    s.phase = .ready ∧ ModScheme.ofId 3 = some .qpsk ∧ (63 : RegIx).toNat + (1 : Num12).toNat ≤ 64 ∧
    HoldsPts s (63 : RegIx).toNat [{ I := -60000, Q := 9000 }] := by
  simp only [HoldsPts]
  decide +kernel

/-- Table reads: the first slot past a table, and an entry that the table holds. -/
theorem witness_table_entries :
    built.phase = .ready ∧ 2 ^ CrcScheme.parityBits .cyclic85 ≤ (8 : Num12).toNat ∧ (7 : Num12).toNat < 2 ^ CrcScheme.parityBits .cyclic85 ∧
    (built.st.get .cyclic85)[7]? = some { present := true, pat := bits "00100000" } ∧
    2 ^ ModScheme.bits .qam16 ≤ (16 : Num12).toNat ∧ (15 : Num12).toNat < 2 ^ ModScheme.bits .qam16 ∧
    (built.ct.get (ModScheme.id .qam16))[15]? = some { I := 20724, Q := 20724 } ∧
    [({ I := -65536, Q := 0 } : Point)][0]? = (built.ct.get (ModScheme.id .qpsk))[toInteger (bits "11")]? := by
  decide +kernel

theorem witness_PgetReadsACoordinate :
    demo.pt 4 = none ∧ demo.pt 3 = some { I := -65536, Q := 9000 } := by decide +kernel

/-- The remainder: a divisor of one bit and a dividend of length `M - 1`; a first bit 1. -/
theorem witness_remainder :
    1 ≤ (bits "1").length ∧ (bits "1").length - 1 ≤ ([] : Bits).length ∧ (bits "1011").length - 1 ≤ (bits "111").length ∧
    (bits "1011").head? = some true := by decide

/-- Lengths that meet the premises of the codec statement, the syndrome 0 and others. -/
theorem witness_CodecFollowsTheSchemes :
    (built.genr.get .cyclic85).length = CrcScheme.parityBits .cyclic85 + 1 ∧
    (bits "10110").length = CrcScheme.dataBits .cyclic85 ∧ (bits "10000000").length = CrcScheme.codeBits .cyclic85 ∧
    toInteger (literalRem (bits "00000000") (built.genr.get .cyclic85)) = 0 ∧
    toInteger (literalRem (bits "10000000") (built.genr.get .cyclic85)) = 1 ∧
    (built.st.get .cyclic85)[1]? = some { present := true, pat := bits "00000001" } := by decide +kernel

/-- One block of data bits for the round trip, arrays that end at register 63. -/
theorem witness_EncodeThenDecodeRestoresBlocks :
    let s := built.putBlk 63 (bits "10110")
    s.phase = .ready ∧ s.tablesBuilt ∧ FecScheme.ofId 2 = some (.crc .cyclic85) ∧
    (63 : RegIx).toNat + (1 : Num12).toNat ≤ 64 ∧ HoldsBlks s (63 : RegIx).toNat [bits "10110"] ∧
    (∀ k, FecScheme.encodeSize (.crc .cyclic85) = some k → ∀ u ∈ [bits "10110"], u.length = k) := by
  refine ⟨rfl, ⟨rfl, rfl, rfl, rfl⟩, rfl, by decide, ?_, by decide⟩
  simp only [HoldsBlks]
  decide +kernel

theorem witness_HammingCorrectsEverySingleFlip :
    demo.phase = .ready ∧ demo.blk (0 : RegIx).toNat = some (bits "1011") ∧ (bits "1011").length = 4 ∧
    (0 : Num12).toNat < 7 ∧ (6 : Num12).toNat < 7 := by decide +kernel

/-- Slot 1 of the Cyclic(8,5) table: the pattern 1 maps to it and none is smaller; slot 0 has no pattern. -/
theorem witness_SmallestPatternWinsTheSlot :
    let g := defaultConfig.gen.get .cyclic85
    (1 < 2 ^ CrcScheme.parityBits .cyclic85 ∧ popcount 8 1 ≤ radius defaultConfig .cyclic85 ∧
      toInteger (gf2Rem (fromInteger 8 1) g) = 1) ∧
    (∀ e < 256, 1 ≤ e → popcount 8 e ≤ radius defaultConfig .cyclic85 → toInteger (gf2Rem (fromInteger 8 e) g) ≠ 0) := by
  decide +kernel

theorem witness_RechunkingIsLosslessAndAssociative : (1 ≤ 1) ∧ (1 ≤ 5) := by decide

/-- A point under the threshold of the second entry only; a point under none, nearest to two entries alike. -/
theorem witness_DemodulationScansInTableOrder :
    let d2 : Point → Point → Int := fun p t => (p.I - t.I) ^ 2 + (p.Q - t.Q) ^ 2
    let table : List Point := [{ I := 0, Q := 0 }, { I := 4, Q := 0 }, { I := 4, Q := 4 }]
    (d2 { I := 3, Q := 0 } { I := 4, Q := 0 } < 2 ^ 2 ∧ 2 ^ 2 ≤ d2 { I := 3, Q := 0 } { I := 0, Q := 0 }) ∧
    (∀ u ∈ table, 2 ^ 2 ≤ d2 { I := 6, Q := 2 } u) ∧
    (∀ u ∈ table, d2 { I := 6, Q := 2 } { I := 4, Q := 0 } ≤ d2 { I := 6, Q := 2 } u) ∧
    d2 { I := 6, Q := 2 } { I := 4, Q := 0 } < d2 { I := 6, Q := 2 } { I := 0, Q := 0 } := by decide

/-- A threshold of exactly half the smallest distance. -/
theorem witness_EarlyExitIsExactBelowHalfDistance :
    let d2 : Point → Point → Int := fun p t => (p.I - t.I) ^ 2 + (p.Q - t.Q) ^ 2
    let table : List Point := [{ I := 0, Q := 0 }, { I := 4, Q := 0 }]
    (0 : Int) ≤ 2 ∧ (∀ u ∈ table, ∀ v ∈ table, u ≠ v → (2 * 2) ^ 2 ≤ d2 u v) ∧
    table[1]? = some { I := 4, Q := 0 } ∧
    (∀ u ∈ table, d2 { I := 3, Q := 0 } { I := 4, Q := 0 } ≤ d2 { I := 3, Q := 0 } u) ∧
    d2 { I := 3, Q := 0 } { I := 4, Q := 0 } < d2 { I := 3, Q := 0 } { I := 0, Q := 0 } := by decide

/-- The default QAM16 table meets the premises, and a symbol block of four bits is held. -/
theorem witness_ModulateThenDemodulateRestoresSymbols :
    let d2 : Point → Point → Int := fun p t => (p.I - t.I) ^ 2 + (p.Q - t.Q) ^ 2
    let s := built.putBlk 63 (bits "1011")
    let table := s.ct.get (ModScheme.id .qam16)
    s.phase = .ready ∧ ModScheme.ofId 11 = some .qam16 ∧ table.length = 2 ^ ModScheme.bits .qam16 ∧ table.Nodup ∧
    0 ≤ s.thr.get (ModScheme.id .qam16) ∧
    (∀ u ∈ table, ∀ v ∈ table, u ≠ v → (s.thr.get (ModScheme.id .qam16)) ^ 2 ≤ d2 u v) ∧
    (63 : RegIx).toNat + (1 : Num12).toNat ≤ 64 ∧ s.blk 63 = some (bits "1011") ∧
    (bits "1011").length = ModScheme.bits .qam16 := by decide +kernel

end Sys2Proof.Tests
end

section
/-! What `Obligations.StepKeepsTheInvariant` (O12) rests on: the lengths of the bit functions, the entries of the
built tables, and one lemma per state update that says it keeps `State.Inv`. -/

namespace Sys2Proof.Machine

/-! ### Lengths of the bit functions (`40` R101, R102, R113, R115, R117, R119) -/

@[simp] theorem zeros_length (n : Nat) : (zeros n).length = n := List.length_replicate

@[simp] theorem fromInteger_length (k v : Nat) : (fromInteger k v).length = k := by
  induction k with
  | zero => rfl
  | succ k ih => simp [fromInteger, ih]

@[simp] theorem withBit_length (x : Bits) (i : Nat) (v : Bool) : (withBit x i v).length = x.length :=
  List.length_set

@[simp] theorem xorBits_length (a b : Bits) : (xorBits a b).length = min a.length b.length :=
  List.length_zipWith

@[simp] theorem takePad_length (n : Nat) (s : Bits) : (takePad n s).length = n := by
  simp only [takePad, List.length_append, List.length_take, zeros_length]
  omega

@[simp] theorem fromString_length (len : Nat) (chars : List Byte) : (fromString len chars).length = len :=
  takePad_length _ _

@[simp] theorem xorPrefix_length (w g : Bits) : (xorPrefix w g).length = w.length := by
  induction w generalizing g with
  | nil => cases g <;> rfl
  | cons b w ih =>
    cases g with
    | nil => rfl
    | cons c g => simp [xorPrefix, ih]

/-- Each step of the division drops one bit. -/
@[simp] theorem gf2Steps_length (g : Bits) (k : Nat) (w : Bits) : (gf2Steps g k w).length = w.length - k := by
  induction k generalizing w with
  | zero => rfl
  | succ k ih =>
    cases w with
    | nil => simp [gf2Steps]
    | cons b w =>
      have hlen : (if b then xorPrefix w g.tail else w).length = w.length := by cases b <;> simp
      rw [gf2Steps, ih, hlen, List.length_cons, Nat.add_sub_add_right]

@[simp] theorem gf2Rem_length (d g : Bits) : (gf2Rem d g).length = d.length - (d.length + 1 - g.length) :=
  gf2Steps_length _ _ _

theorem length_of_mem_slices {target k : Nat} {s x : Bits} (h : x ∈ slices target k s) : x.length = target := by
  induction k generalizing s with
  | zero => cases h
  | succ k ih =>
    rcases List.mem_cons.mp h with rfl | h
    · exact takePad_length _ _
    · exact ih h

theorem length_of_mem_rechunk {blocks : List Bits} {target : Nat} {x : Bits} (h : x ∈ rechunk blocks target) :
    x.length = target :=
  length_of_mem_slices h

/-- A copy inside both ranges keeps the length of the destination. -/
theorem copyRange_length {dst src : Bits} {doff soff n : Nat} (hd : doff + n ≤ dst.length)
    (hs : soff + n ≤ src.length) : (copyRange dst doff src soff n).length = dst.length := by
  simp only [copyRange, List.length_append, List.length_take, List.length_drop]
  omega

/-! ### Lengths of coded and decoded blocks (`41` R147, R151) -/

@[simp] theorem hammingEncode_length (enc : HamSets) (d : Bits) : (hammingEncode enc d).length = d.length + 3 := by
  simp [hammingEncode]

theorem crcEncode_length_le (g : Bits) (r : Nat) (d : Bits) :
    (crcEncode g r d).length ≤ d.length + (d.length + r) := by
  simp [crcEncode]

theorem hammingDecode_length_le (syn : HamSets) (w : Bits) : (hammingDecode syn w).length ≤ 4 :=
  List.length_take_le _ _

theorem crcDecode_length_le (g : Bits) (len k : Nat) (table : List SynEntry) (w : Bits) :
    (crcDecode g len k table w).length ≤ k :=
  List.length_take_le _ _

theorem crcScheme_dataBits_le (c : CrcScheme) : c.dataBits ≤ 7 := by cases c <;> decide

theorem crcScheme_parityBits_le (c : CrcScheme) : c.parityBits ≤ 10 := by cases c <;> decide

theorem crcScheme_codeBits_le (c : CrcScheme) : c.codeBits ≤ 15 := by cases c <;> decide

/-- What `FENC` writes fits a register: `NONE` copies the block, the other schemes code at most seven bits. -/
theorem fecEncode_fits {enc : HamSets} {genr : PerCrc Bits} {f : FecScheme} {d : Bits} (hd : d.length ≤ MAXLEN)
    (hsize : ∀ len, f.encodeSize = some len → d.length = len) : (fecEncode enc genr f d).length ≤ MAXLEN := by
  cases f with
  | noCode => exact hd
  | hamming74 =>
    have hlen : d.length = 4 := hsize 4 rfl
    simp [fecEncode, hlen, MAXLEN]
  | crc c =>
    have hlen : d.length = c.dataBits := hsize _ rfl
    have hdata := crcScheme_dataBits_le c
    have hparity := crcScheme_parityBits_le c
    calc (fecEncode enc genr (.crc c) d).length
        ≤ d.length + (d.length + c.parityBits) := crcEncode_length_le _ _ _
      _ ≤ MAXLEN := by simp only [MAXLEN]; omega

/-- What `FDEC` writes fits a register: `NONE` copies the block, the other schemes keep the data bits only. -/
theorem fecDecode_fits {syn : HamSets} {genr : PerCrc Bits} {st : PerCrc (List SynEntry)} {f : FecScheme} {w : Bits}
    (hw : w.length ≤ MAXLEN) : (fecDecode syn genr st f w).length ≤ MAXLEN := by
  cases f with
  | noCode => exact hw
  | hamming74 => exact (hammingDecode_length_le syn w).trans (by decide)
  | crc c => exact (crcDecode_length_le _ _ _ _ _).trans ((crcScheme_dataBits_le c).trans (by decide))

/-! ### Entries of a built syndrome table (`41` R148) -/

/-- A slot holds something that was written to it. -/
theorem mem_of_lastWrite {α : Type} {writes : List (Nat × α)} {slot : Nat} {a : α}
    (h : lastWrite writes slot = some a) : (slot, a) ∈ writes := by
  obtain ⟨⟨n, b⟩, hfind, rfl⟩ := Option.map_eq_some_iff.mp h
  obtain rfl : n = slot := by simpa using List.find?_some hfind
  exact List.mem_reverse.mp (List.mem_of_find?_eq_some hfind)

theorem length_of_mem_patternsDown {L t : Nat} {p : Bits} (h : p ∈ patternsDown L t) : p.length = L := by
  induction L generalizing t p with
  | zero =>
    obtain rfl : p = [] := by simpa [patternsDown] using h
    rfl
  | succ L ih =>
    cases t with
    | zero =>
      obtain ⟨q, hq, rfl⟩ := List.mem_map.mp h
      rw [List.length_cons, ih hq]
    | succ t =>
      obtain ⟨q, hq, rfl⟩ | ⟨q, hq, rfl⟩ := (List.mem_append.mp h).imp List.mem_map.mp List.mem_map.mp
      · rw [List.length_cons, ih hq]
      · rw [List.length_cons, ih hq]

theorem synSlot_pat_length (len t : Nat) (g : Bits) (v : Nat) :
    (synSlot len (synWrites len t g) v).pat.length = len := by
  unfold synSlot
  split
  next pat h =>
    obtain ⟨q, hq, heq⟩ := List.mem_map.mp (mem_of_lastWrite h)
    obtain ⟨-, rfl⟩ := Prod.mk.inj heq
    exact length_of_mem_patternsDown (List.mem_of_mem_dropLast hq)
  next => exact zeros_length len

/-- A correction pattern is as long as the code words, in the table and past it. -/
theorem synLookup_synTable_pat_length (c : Config) (s : CrcScheme) (v : Nat) :
    (synLookup s.codeBits (synTable c s) v).pat.length = s.codeBits := by
  rw [synLookup, List.getD_eq_getElem?_getD]
  cases h : (synTable c s)[v]? with
  | none => exact zeros_length _
  | some e =>
    obtain ⟨u, -, rfl⟩ := List.mem_map.mp (List.mem_of_getElem? h)
    exact synSlot_pat_length _ _ _ _

@[simp] theorem builtSt_get (c : Config) (s : CrcScheme) : (builtSt c).get s = synTable c s := by
  cases s <;> simp only [builtSt, PerCrc.get]

/-! ### What a legal configuration promises (`00` R7) -/

theorem mem_allModSchemes (m : ModScheme) : m ∈ allModSchemes := by cases m <;> decide

theorem forall_crcScheme {P : CrcScheme → Prop} : (∀ s, P s) ↔ P .cyclic85 ∧ P .bch155 ∧ P .bch157 :=
  ⟨fun h => ⟨h _, h _, h _⟩, fun ⟨h1, h2, h3⟩ s => by cases s <;> assumption⟩

/-- The constraints with the schemes as variables. -/
theorem configLegal_iff {c : Config} :
    configLegal c = true ↔
      (2 ≤ c.coordW ∧ c.coordW ≤ 64 ∧ c.coordF < c.coordW) ∧
      (∀ s : CrcScheme, genLegal s.parityBits (c.gen.get s) = true) ∧
      (c.tCyclic85 ≤ 8 ∧ hammingLegal c.hamEnc c.hamSyn = true) ∧ ∀ m, modLegal c m = true := by
  have hmod : (∀ m ∈ allModSchemes, modLegal c m = true) ↔ ∀ m, modLegal c m = true :=
    ⟨fun h m => h m (mem_allModSchemes m), fun h m _ => h m⟩
  simp only [configLegal, Bool.and_eq_true, decide_eq_true_eq, List.all_eq_true, hmod, forall_crcScheme,
    CrcScheme.parityBits, PerCrc.get, and_assoc]

theorem gen_length (c : LegalConfig) (s : CrcScheme) : (c.val.gen.get s).length = s.parityBits + 1 := by
  obtain ⟨-, hgen, -, -⟩ := configLegal_iff.mp c.property
  have hs := hgen s
  simp only [genLegal, Bool.and_eq_true, beq_iff_eq] at hs
  obtain ⟨⟨hlen, -⟩, -⟩ := hs
  exact hlen

/-! ### Coordinates (`00` R11) -/

theorem inCoordRange_iff {W : Nat} {v : Int} :
    inCoordRange W v = true ↔ -(2 ^ (W - 1) : Int) ≤ v ∧ v < (2 ^ (W - 1) : Int) := by
  simp [inCoordRange]

theorem pointInRange_iff {W : Nat} {p : Point} :
    pointInRange W p = true ↔ inCoordRange W p.I = true ∧ inCoordRange W p.Q = true := by
  simp [pointInRange]

theorem origin_inRange (W : Nat) : pointInRange W origin = true := by
  have hzero : inCoordRange W 0 = true := inCoordRange_iff.mpr ⟨by simp, by positivity⟩
  exact pointInRange_iff.mpr ⟨hzero, hzero⟩

/-- The low `W` bits of a word, sign-extended, are a coordinate (R11, R198). -/
theorem sextCoord_inRange (W : Nat) (w : Word) : inCoordRange W (sextCoord W w) = true :=
  inCoordRange_iff.mpr ⟨BitVec.le_toInt _, BitVec.toInt_lt⟩

/-! ### Entries of a built constellation table (`42` R184, R189) -/

/-- A table holds only points that were written to it, and the origin. -/
theorem forall_mem_tableOf {P : Point → Prop} {volume : Nat} {writes : List (Nat × Point)} (horigin : P origin)
    (hwrites : ∀ e ∈ writes, P e.2) : ∀ t ∈ tableOf volume writes, P t := by
  intro t ht
  obtain ⟨cw, -, rfl⟩ := List.mem_map.mp ht
  cases h : lastWrite writes cw with
  | none => exact horigin
  | some p => exact hwrites _ (mem_of_lastWrite h)

theorem pskWrites_inRange {W volume : Nat} {isGray : Bool} {pts : List Point}
    (hpts : pts.all (pointInRange W) = true) :
    ∀ e ∈ pskWrites isGray volume pts, pointInRange W e.2 = true := by
  intro e he
  obtain ⟨i, -, rfl⟩ := List.mem_map.mp he
  change pointInRange W (pts.getD i origin) = true
  rw [List.getD_eq_getElem?_getD]
  cases h : pts[i]? with
  | none => exact origin_inRange W
  | some p => exact List.all_eq_true.mp hpts p (List.mem_of_getElem? h)

theorem natAbs_le_of_mem_oddAxis {b : Nat} {v : Int} (h : v ∈ oddAxis b) : v.natAbs ≤ b := by
  obtain ⟨k, hk, rfl⟩ := List.mem_map.mp h
  have hkb : k < b + 1 := List.mem_range.mp hk
  omega

theorem natAbs_le_of_mem_qamColumn {b : Nat} {cross up : Bool} {i : Int} {e : Int × Int}
    (h : e ∈ qamColumn b cross up i) : e.1 = i ∧ e.2.natAbs ≤ b := by
  obtain ⟨q, hq, rfl⟩ := List.mem_map.mp h
  have haxis : q ∈ oddAxis b := by cases up <;> simpa using List.mem_of_mem_filter hq
  exact ⟨rfl, natAbs_le_of_mem_oddAxis haxis⟩

theorem mem_of_mem_serpentine {b : Nat} {cross up : Bool} {is : List Int} {e : Int × Int}
    (h : e ∈ serpentine b cross up is) : e.1 ∈ is ∧ e.2.natAbs ≤ b := by
  induction is generalizing up with
  | nil => cases h
  | cons i is ih =>
    rcases List.mem_append.mp h with h | h
    · obtain ⟨hi, hq⟩ := natAbs_le_of_mem_qamColumn h
      exact ⟨hi ▸ List.mem_cons_self, hq⟩
    · obtain ⟨hi, hq⟩ := ih h
      exact ⟨List.mem_cons_of_mem _ hi, hq⟩

/-- The traversal stays on the grid: both components lie between `-b` and `b`. -/
theorem natAbs_le_of_mem_qamPath {b : Nat} {cross : Bool} {e : Int × Int} (h : e ∈ qamPath b cross) :
    e.1.natAbs ≤ b ∧ e.2.natAbs ≤ b := by
  obtain ⟨hi, hq⟩ := mem_of_mem_serpentine h
  exact ⟨natAbs_le_of_mem_oddAxis hi, hq⟩

/-- A grid value scaled by a normalisation constant whose grid fits is a coordinate (`00` R7). -/
theorem scaled_inCoordRange {W b : Nat} {v norm : Int} (hv : v.natAbs ≤ b) (hpos : 0 < norm)
    (hfit : (b : Int) * norm < 2 ^ (W - 1)) : inCoordRange W (v * norm) = true := by
  have hupper : v * norm ≤ b * norm := mul_le_mul_of_nonneg_right (by omega) hpos.le
  have hlower : -(b : Int) * norm ≤ v * norm := mul_le_mul_of_nonneg_right (by omega) hpos.le
  rw [neg_mul] at hlower
  exact inCoordRange_iff.mpr ⟨by linarith, by linarith⟩

theorem qamWrites_inRange {W b : Nat} {cross : Bool} {norm : Int} (hpos : 0 < norm)
    (hfit : (b : Int) * norm < 2 ^ (W - 1)) :
    ∀ e ∈ qamWrites b cross norm, pointInRange W e.2 = true := by
  intro e he
  obtain ⟨⟨seq, grid⟩, hgrid, rfl⟩ := List.mem_map.mp he
  obtain ⟨hi, hq⟩ := natAbs_le_of_mem_qamPath (List.of_mem_zip hgrid).2
  exact pointInRange_iff.mpr ⟨scaled_inCoordRange hi hpos hfit, scaled_inCoordRange hq hpos hfit⟩

/-- Every point of a built table holds coordinates. -/
theorem constellation_inRange {c : Config} (hc : configLegal c = true) (m : ModScheme) :
    ∀ t ∈ constellation c m, pointInRange c.coordW t = true := by
  obtain ⟨-, -, -, hmod⟩ := configLegal_iff.mp hc
  have hm := hmod m
  unfold modLegal at hm
  unfold constellation
  cases hshape : m.shape with
  | psk ix isGray =>
    simp only [hshape, Bool.and_eq_true] at hm
    obtain ⟨⟨⟨-, hpts⟩, -⟩, -⟩ := hm
    exact forall_mem_tableOf (origin_inRange _) (pskWrites_inRange hpts)
  | qam ix b cross =>
    simp only [hshape, Bool.and_eq_true, decide_eq_true_eq] at hm
    obtain ⟨hpos, hfit⟩ := hm
    exact forall_mem_tableOf (origin_inRange _) (qamWrites_inRange hpos hfit)

@[simp] theorem builtCt_get (c : Config) (m : ModScheme) : (builtCt c).get m.id = constellation c m := by
  cases m <;> simp [builtCt, Vector.get, ModScheme.id]

/-- A read of a built table, inside it or past it, gives coordinates. -/
theorem tablePoint_inRange {s : State} (h : s.tablesBuilt) (m : ModScheme) (cw : Nat) :
    pointInRange s.cfg.val.coordW (s.tablePoint m cw) = true := by
  obtain ⟨-, -, hct, -⟩ := h
  rw [State.tablePoint, hct, builtCt_get, List.getD_eq_getElem?_getD]
  cases ht : (constellation s.cfg.val m)[cw]? with
  | none => exact origin_inRange _
  | some t => exact constellation_inRange s.cfg.property m t (List.mem_of_getElem? ht)

theorem modScheme_bits_le (m : ModScheme) : m.bits ≤ 12 := by cases m <;> decide

/-! ### What a step can do -/

section StepEquations

variable {s t : State} {w : Word} {payload rest : List Word}

theorem step_of_reset (hreset : s.resetIn = true) : step s = .next s.takeReset := by
  simp [step, hreset]

theorem step_of_fatal (hreset : s.resetIn = false) (hphase : s.phase = .fatal) : step s = .fault .fatalPhase := by
  simp [step, hreset, hphase]

theorem step_of_idle (hreset : s.resetIn = false) (hphase : s.phase ≠ .fatal) (hfetch : fetch s.stream = .idle) :
    step s = .next s := by
  cases hp : s.phase <;> simp_all [step]

theorem step_of_incomplete (hreset : s.resetIn = false) (hphase : s.phase ≠ .fatal)
    (hfetch : fetch s.stream = .incomplete) : step s = .next s.acceptPart := by
  cases hp : s.phase <;> simp_all [step]

theorem step_of_legal {i : Instr} (hreset : s.resetIn = false) (hphase : s.phase ≠ .fatal)
    (hfetch : fetch s.stream = .command w payload rest) (hdecode : decodeCommand w payload = .ok i) :
    step s = exec i (s.accept rest) := by
  cases hp : s.phase <;> simp_all [step]

theorem step_of_illegal {reason : Illegal} (hreset : s.resetIn = false) (hphase : s.phase ≠ .fatal)
    (hfetch : fetch s.stream = .command w payload rest) (hdecode : decodeCommand w payload = .error reason) :
    step s = .next (fatalState (s.accept rest) .badenum w) := by
  cases hp : s.phase <;> simp_all [step, raiseFatal_eq_fatalState]

/-- Everything a step can do when it gives a next state: take the reset, wait with no word, take the words of an
incomplete command, run a command, or raise BADENUM for an illegal word. -/
theorem step_next (h : step s = .next t) :
    (s.resetIn = true ∧ t = s.takeReset) ∨
    (s.resetIn = false ∧ s.phase ≠ .fatal ∧
      ((fetch s.stream = .idle ∧ t = s) ∨
       (fetch s.stream = .incomplete ∧ t = s.acceptPart) ∨
       (∃ w payload rest i, fetch s.stream = .command w payload rest ∧ decodeCommand w payload = .ok i ∧
         exec i (s.accept rest) = .next t) ∨
       (∃ w payload rest reason, fetch s.stream = .command w payload rest ∧
         decodeCommand w payload = .error reason ∧ t = fatalState (s.accept rest) .badenum w))) := by
  cases hreset : s.resetIn with
  | true =>
    rw [step_of_reset hreset] at h
    exact .inl ⟨rfl, (Host.Outcome.next.inj h).symm⟩
  | false =>
    have hphase : s.phase ≠ .fatal := fun hfatal => by
      rw [step_of_fatal hreset hfatal] at h
      cases h
    refine .inr ⟨rfl, hphase, ?_⟩
    cases hfetch : fetch s.stream with
    | idle =>
      rw [step_of_idle hreset hphase hfetch] at h
      exact .inl ⟨rfl, (Host.Outcome.next.inj h).symm⟩
    | incomplete =>
      rw [step_of_incomplete hreset hphase hfetch] at h
      exact .inr (.inl ⟨rfl, (Host.Outcome.next.inj h).symm⟩)
    | command w payload rest =>
      cases hdecode : decodeCommand w payload with
      | ok i =>
        rw [step_of_legal hreset hphase hfetch hdecode] at h
        exact .inr (.inr (.inl ⟨w, payload, rest, i, rfl, hdecode, h⟩))
      | error reason =>
        rw [step_of_illegal hreset hphase hfetch hdecode] at h
        exact .inr (.inr (.inr ⟨w, payload, rest, reason, rfl, hdecode, (Host.Outcome.next.inj h).symm⟩))

end StepEquations

/-! ### The state updates keep the control part -/

theorem sameControl_putBlk (s : State) (r : Nat) (x : Bits) : SameControl s (s.putBlk r x) := by
  constructor <;> rfl

theorem sameControl_freeBlk (s : State) (r : Nat) : SameControl s (s.freeBlk r) := by
  constructor <;> rfl

theorem sameControl_putPt (s : State) (k : Nat) (t : Point) : SameControl s (s.putPt k t) := by
  constructor <;> rfl

theorem sameControl_putAcc (s : State) (v : Word) : SameControl s (s.putAcc v) := by
  constructor <;> rfl

theorem sameControl_arrayDone (s : State) (out : Nat) : SameControl s (s.arrayDone out) := by
  constructor <;> rfl

/-! ### The state updates keep the invariant -/

/-- The invariant reads the control part and the register files only. -/
theorem State.Inv.of_sameControl {s t : State} (h : s.Inv) (hc : SameControl s t) (hblocks : t.blocksFit)
    (hpoints : t.pointsFit) : t.Inv where
  blocks := hblocks
  points := hpoints
  tables hready := by
    obtain ⟨hgenr, hst, hct, hthr⟩ := h.tables (hc.phase ▸ hready)
    simp only [State.tablesBuilt, hc.cfg, hc.genr, hc.st, hc.ct, hc.thr]
    exact ⟨hgenr, hst, hct, hthr⟩
  diagnostic := by
    simpa only [State.diagnosticFits, hc.phase, hc.fcause, hc.fcmd] using h.diagnostic
  opened := by
    simpa only [State.openIncomplete, hc.opened] using h.opened

theorem State.Inv.putBlk {s : State} (h : s.Inv) {r : Nat} (hr : r < 64) {x : Bits} (hx : x.length ≤ MAXLEN) :
    (s.putBlk r x).Inv := by
  refine h.of_sameControl (sameControl_putBlk s r x) ?_ h.points
  intro n y hy
  rw [blk_putBlk s hr, withBlk] at hy
  split at hy
  · exact Option.some.inj hy ▸ hx
  · exact h.blocks n y hy

/-- A block no longer than one that some register holds can be written to any register. -/
theorem State.Inv.putBlk_of_le {s : State} (h : s.Inv) {r n : Nat} (hr : r < 64) {a x : Bits}
    (ha : s.blk n = some a) (hx : x.length ≤ a.length) : (s.putBlk r x).Inv :=
  h.putBlk hr (hx.trans (h.blocks n a ha))

theorem State.Inv.freeBlk {s : State} (h : s.Inv) {r : Nat} (hr : r < 64) : (s.freeBlk r).Inv := by
  refine h.of_sameControl (sameControl_freeBlk s r) ?_ h.points
  intro n y hy
  rw [blk_freeBlk s hr] at hy
  split at hy
  · cases hy
  · exact h.blocks n y hy

theorem State.Inv.putPt {s : State} (h : s.Inv) {k : Nat} (hk : k < 64) {p : Point}
    (hp : pointInRange s.cfg.val.coordW p = true) : (s.putPt k p).Inv := by
  refine h.of_sameControl (sameControl_putPt s k p) h.blocks ?_
  intro n q hq
  rw [pt_putPt s hk, withPt] at hq
  split at hq
  · exact Option.some.inj hq ▸ hp
  · exact h.points n q hq

theorem State.Inv.putAcc {s : State} (h : s.Inv) (v : Word) : (s.putAcc v).Inv :=
  h.of_sameControl (sameControl_putAcc s v) h.blocks h.points

theorem State.Inv.arrayDone {s : State} (h : s.Inv) (out : Nat) : (s.arrayDone out).Inv :=
  h.of_sameControl (sameControl_arrayDone s out) h.blocks h.points

theorem State.Inv.putBlks {xs : List Bits} {s : State} (h : s.Inv) {base : Nat} (hbase : base + xs.length ≤ 64)
    (hxs : ∀ x ∈ xs, x.length ≤ MAXLEN) : (s.putBlks base xs).Inv := by
  induction xs generalizing s base with
  | nil => exact h
  | cons x xs ih =>
    rw [List.length_cons] at hbase
    obtain ⟨hx, hxs⟩ := List.forall_mem_cons.mp hxs
    exact ih (h.putBlk (by omega) hx) (by omega) hxs

theorem State.Inv.putPts {ts : List Point} {s : State} (h : s.Inv) {base : Nat} (hbase : base + ts.length ≤ 64)
    (hts : ∀ t ∈ ts, pointInRange s.cfg.val.coordW t = true) : (s.putPts base ts).Inv := by
  induction ts generalizing s base with
  | nil => exact h
  | cons t ts ih =>
    rw [List.length_cons] at hbase
    obtain ⟨ht, hts⟩ := List.forall_mem_cons.mp hts
    exact ih (h.putPt (by omega) ht) (by omega) hts

/-- Fatal entry writes the diagnostic registers and the phase only (`60` R226). -/
theorem State.Inv.fatalState {s : State} (h : s.Inv) (cause : FatalCause) (w : Word) :
    (Machine.fatalState s cause w).Inv where
  blocks := h.blocks
  points := h.points
  tables hready := by cases hready
  diagnostic := ⟨fun _ => ⟨cause, rfl⟩, fun hphase => absurd rfl hphase⟩
  opened := h.opened

theorem State.Inv.buildTables {s : State} (h : s.Inv) (hphase : s.phase ≠ .fatal) : s.buildTables.Inv where
  blocks := h.blocks
  points := h.points
  tables _ := ⟨rfl, rfl, rfl, rfl⟩
  diagnostic := ⟨fun hfatal => by (cases hfatal), fun _ => h.diagnostic.2 hphase⟩
  opened := h.opened

theorem State.Inv.accept {s : State} (h : s.Inv) (rest : List Word) : (s.accept rest).Inv where
  blocks := h.blocks
  points := h.points
  tables := h.tables
  diagnostic := h.diagnostic
  opened _ _ _ hfetch := by cases hfetch

theorem State.Inv.acceptPart {s : State} (h : s.Inv) (hfetch : fetch s.stream = .incomplete) :
    s.acceptPart.Inv where
  blocks := h.blocks
  points := h.points
  tables := h.tables
  diagnostic := h.diagnostic
  opened w payload rest hcommand := by
    rw [acceptPart_opened, hfetch] at hcommand
    cases hcommand

theorem afterReset_inv (cfg : LegalConfig) (ws : List Word) : (State.afterReset cfg ws).Inv where
  blocks r x hx := by
    rw [afterReset_blk] at hx
    cases hx
  points k t ht := by
    rw [afterReset_pt] at ht
    cases ht
  tables hready := by cases hready
  diagnostic := ⟨fun hfatal => by (cases hfatal), fun _ => ⟨rfl, rfl⟩⟩
  opened _ _ _ hfetch := by cases hfetch

/-! ### The commands keep the invariant -/

/-- The source blocks of an array command fit their registers. -/
theorem length_le_of_holdsBlks {s : State} (h : s.blocksFit) {base : Nat} {xs : List Bits}
    (hxs : HoldsBlks s base xs) : ∀ x ∈ xs, x.length ≤ MAXLEN := by
  intro x hx
  obtain ⟨j, hj, rfl⟩ := List.mem_iff_getElem.mp hx
  exact h (base + j) _ ((hxs j hj).trans (List.getElem?_eq_getElem hj))

/-- A command that completes keeps the invariant: what it writes to a block register is no longer than MAXLEN, and
what it writes to a point register is a pair of coordinates. -/
theorem State.Inv.of_completed {i : Instr} {s t : State} (h : s.Inv) (hc : Completed i s t) : t.Inv := by
  cases i with
  | init =>
    rcases hc with ⟨hphase, rfl⟩ | ⟨-, rfl⟩
    · exact h.buildTables (by simp [hphase])
    · exact h
  | bcreate ra n =>
    obtain ⟨-, rfl⟩ := hc
    exact h.putBlk ra.isLt ((zeros_length _).trans_le (Nat.le_of_lt_succ n.isLt))
  | bdestroy ra =>
    obtain ⟨-, -, rfl⟩ := hc
    exact h.freeBlk ra.isLt
  | bget ra x =>
    obtain ⟨-, a, -, -, rfl⟩ := hc
    exact h.putAcc _
  | bset ra x v =>
    obtain ⟨-, a, ha, -, rfl⟩ := hc
    exact h.putBlk_of_le ra.isLt ha (withBit_length _ _ _).le
  | bxori ra x v =>
    obtain ⟨-, a, ha, -, rfl⟩ := hc
    exact h.putBlk_of_le ra.isLt ha (withBit_length _ _ _).le
  | bcpbit ra x rb y =>
    obtain ⟨-, a, ha, b, -, -, -, rfl⟩ := hc
    exact h.putBlk_of_le ra.isLt ha (withBit_length _ _ _).le
  | bflip ra x =>
    obtain ⟨-, a, ha, -, rfl⟩ := hc
    exact h.putBlk_of_le ra.isLt ha (withBit_length _ _ _).le
  | bcmp ra x rb y =>
    obtain ⟨-, a, -, b, -, -, -, rfl⟩ := hc
    exact h.putAcc _
  | btoint ra =>
    obtain ⟨-, a, -, rfl⟩ := hc
    exact h.putAcc _
  | bfromint ra value =>
    obtain ⟨-, a, ha, rfl⟩ := hc
    exact h.putBlk_of_le ra.isLt ha (fromInteger_length _ _).le
  | bfromstr ra chars =>
    obtain ⟨-, a, ha, -, rfl⟩ := hc
    exact h.putBlk_of_le ra.isLt ha (fromString_length _ _).le
  | bdivmod ra rb rc =>
    obtain ⟨-, d, hd, g, -, -, -, rfl⟩ := hc
    exact h.putBlk_of_le ra.isLt hd ((gf2Rem_length d g).trans_le (Nat.sub_le _ _))
  | bxor ra rb =>
    obtain ⟨-, a, ha, b, -, -, rfl⟩ := hc
    exact h.putBlk_of_le ra.isLt ha ((xorBits_length a b).trans_le (Nat.min_le_left _ _))
  | bmxor ra idxs =>
    obtain ⟨-, a, -, -, rfl⟩ := hc
    exact h.putAcc _
  | bcopy ra x rb y n =>
    obtain ⟨-, a, ha, b, -, hdst, hsrc, rfl⟩ := hc
    exact h.putBlk_of_le ra.isLt ha (copyRange_length hdst hsrc).le
  | brechunk ra rb x n =>
    obtain ⟨-, -, xs, -, -, -, -, hout, rfl⟩ := hc
    refine (h.putBlks hout fun y hy => ?_).arrayDone _
    exact (length_of_mem_rechunk hy).trans_le (Nat.le_of_lt_succ n.isLt)
  | fenc ra rb sch x =>
    obtain ⟨-, f, -, -, xs, hlen, hxs, hsize, hout, rfl⟩ := hc
    refine (h.putBlks (by simpa [hlen] using hout) (List.forall_mem_map.mpr fun y hy => ?_)).arrayDone _
    exact fecEncode_fits (length_le_of_holdsBlks h.blocks hxs y hy) fun len hf => hsize len hf y hy
  | fdec ra rb sch x =>
    obtain ⟨-, f, -, -, xs, hlen, hxs, -, hout, rfl⟩ := hc
    refine (h.putBlks (by simpa [hlen] using hout) (List.forall_mem_map.mpr fun y hy => ?_)).arrayDone _
    exact fecDecode_fits (length_le_of_holdsBlks h.blocks hxs y hy)
  | fsynrd ra sch x =>
    obtain ⟨hready, f, -, -, rfl⟩ := hc
    obtain ⟨-, hst, -, -⟩ := h.tables hready
    refine (h.putBlk ra.isLt ?_).putAcc _
    rw [hst, builtSt_get, synLookup_synTable_pat_length]
    exact (crcScheme_codeBits_le f).trans (by decide)
  | fgenrd ra sch =>
    obtain ⟨hready, f, -, rfl⟩ := hc
    obtain ⟨hgenr, -, -, -⟩ := h.tables hready
    refine h.putBlk ra.isLt ?_
    rw [hgenr, builtGenr, gen_length]
    exact (Nat.succ_le_succ (crcScheme_parityBits_le f)).trans (by decide)
  | mmod ra rb sch x =>
    obtain ⟨hready, m, -, -, xs, hlen, -, -, hout, rfl⟩ := hc
    refine (h.putPts (by simpa [hlen] using hout) (List.forall_mem_map.mpr fun y _ => ?_)).arrayDone _
    exact tablePoint_inRange (h.tables hready) m _
  | mdem ra rb sch x =>
    obtain ⟨-, m, -, -, ts, hlen, -, hout, rfl⟩ := hc
    refine (h.putBlks (by simpa [hlen] using hout) (List.forall_mem_map.mpr fun p _ => ?_)).arrayDone _
    rw [fromInteger_length]
    exact (modScheme_bits_le m).trans (by decide)
  | pset ra a b =>
    obtain ⟨-, rfl⟩ := hc
    exact h.putPt ra.isLt (pointInRange_iff.mpr ⟨sextCoord_inRange _ a, sextCoord_inRange _ b⟩)
  | pget ra y =>
    obtain ⟨-, p, -, rfl⟩ := hc
    exact h.putAcc _
  | mtabrd ra sch x =>
    obtain ⟨hready, m, -, -, rfl⟩ := hc
    exact h.putPt ra.isLt (tablePoint_inRange (h.tables hready) m _)

theorem State.Inv.of_failed {i : Instr} {s t : State} (h : s.Inv) (hf : Failed i s t) : t.Inv := by
  obtain ⟨-, ⟨-, rfl⟩ | ⟨-, cause, -, rfl⟩⟩ := hf
  · exact h.fatalState _ _
  · exact h.fatalState _ _

theorem exec_keeps_inv {i : Instr} {s t : State} (h : s.Inv) (he : exec i s = .next t) : t.Inv :=
  (exec_next he).elim h.of_failed h.of_completed

/-- Settles O12: by the cases of `step_next`, each of which is an update that keeps the invariant. -/
theorem stepKeepsTheInvariant : Obligations.StepKeepsTheInvariant := by
  intro s t h hstep
  obtain ⟨-, rfl⟩ | ⟨-, -, hcase⟩ := step_next hstep
  · exact afterReset_inv _ _
  obtain ⟨-, rfl⟩ | ⟨hfetch, rfl⟩ | ⟨w, payload, rest, i, -, -, hexec⟩ | ⟨w, payload, rest, reason, -, -, rfl⟩ :=
    hcase
  · exact h
  · exact h.acceptPart hfetch
  · exact exec_keeps_inv (h.accept rest) hexec
  · exact (h.accept rest).fatalState _ _

end Sys2Proof.Machine
end

section
/-! What the statements about the state rest on: the reset state and the read port, the words that decode to a
command, one list of the writes that a completed command can make, what follows from it for the phase, the tables,
the flags and the registers, and commands run with other flags. -/

namespace Sys2Proof.Machine

/-! ### The state after reset (`10` R36) -/

/-- Settles O10: every field by its lemma about `State.afterReset`. -/
theorem resetStateHoldsTheStatedValues : Obligations.ResetStateHoldsTheStatedValues :=
  ⟨rfl, afterReset_blk _ _, afterReset_pt _ _, rfl, rfl, rfl, rfl⟩

/-- Settles O13: the state after any reset meets the invariant. -/
theorem resetMeetsTheInvariant : Obligations.ResetMeetsTheInvariant := afterReset_inv _ _

/-! ### The read port (`10` R30) -/

/-- A word with bit `k` alone set, or with none. -/
theorem getLsbD_ite_twoPow (p : Prop) [Decidable p] (k n : Nat) (hk : k < 64) :
    (if p then BitVec.twoPow 64 k else 0).getLsbD n = (decide p && decide (n = k)) := by
  split
  next hp => simp [hp, BitVec.getLsbD_twoPow, hk, eq_comm]
  next hp => simp [hp]

/-- Each bit of STATUS: READY, FATAL, NODATA, and 0 above them. -/
theorem status_getLsbD (s : State) (n : Nat) :
    s.status.getLsbD n = (decide (s.phase = .ready) && decide (n = 0) || decide (s.phase = .fatal) && decide (n = 1) ||
      s.nodata && decide (n = 2)) := by
  have hbits : s.status = (if s.phase = .ready then BitVec.twoPow 64 0 else 0) |||
      (if s.phase = .fatal then BitVec.twoPow 64 1 else 0) ||| (if s.nodata then BitVec.twoPow 64 2 else 0) := rfl
  rw [hbits, BitVec.getLsbD_or, BitVec.getLsbD_or, getLsbD_ite_twoPow _ 0 n (by decide),
    getLsbD_ite_twoPow _ 1 n (by decide), getLsbD_ite_twoPow _ 2 n (by decide), Bool.decide_eq_true]

theorem readPort_of_ge (s : State) {a : Nat} (ha : 4 ≤ a) : s.readPort a = 0 := by
  match a, ha with
  | _ + 4, _ => rfl

theorem reset_readPort (a : Nat) : State.reset.readPort a = 0 := by
  match a with
  | 0 | 1 | 2 | 3 => rfl
  | a + 4 => exact readPort_of_ge _ (Nat.le_add_left 4 a)

/-- Settles O11: STATUS bit by bit, the other addresses as the port lists them. -/
theorem readPortShowsStatusCauseCommandAndAcc : Obligations.ReadPortShowsStatusCauseCommandAndAcc := by
  refine ⟨fun s => ⟨?_, ?_, ?_, fun n hn => ?_, ?_, rfl, rfl, fun a => readPort_of_ge s⟩, reset_readPort⟩
  · exact (status_getLsbD s 0).trans (by simp)
  · exact (status_getLsbD s 1).trans (by simp)
  · exact (status_getLsbD s 2).trans (by simp)
  · have hbits : n ≠ 0 ∧ n ≠ 1 ∧ n ≠ 2 := by omega
    exact (status_getLsbD s n).trans (by simp [hbits])
  · exact BitVec.toNat_setWidth_of_le (by decide)

/-! ### The words that decode to a command (`30` R60, `70` R258) -/

theorem decode_eq_ok_iff {ws rest : List Word} {i : Instr} :
    decode ws = .ok (i, rest) ↔
      ∃ w payload, fetch ws = .command w payload rest ∧ decodeCommand w payload = .ok i := by
  unfold decode
  cases fetch ws with
  | idle => simp
  | incomplete => simp
  | command w payload rest' =>
    cases hdecode : decodeCommand w payload with
    | ok j => simp [hdecode, and_comm]
    | error reason => simp [hdecode]

/-- Settles O6: the decoder cuts the words as the step does, and the step executes what it decodes. -/
theorem stepRunsTheDecodedCommand : Obligations.StepRunsTheDecodedCommand := by
  intro s i rest hreset hphase hdecode
  obtain ⟨w, payload, hfetch, hcommand⟩ := decode_eq_ok_iff.mp hdecode
  exact step_of_legal hreset hphase hfetch hcommand

/-! ### The writes of a completed command -/

/-- The writes that a command may make when it completes, each with the list of `10` R21 to R25 that it must be on;
a command on none of them is `INIT`, or replaces a block by one of the same length. -/
inductive Wrote (i : Instr) (s : State) : State → Prop
  | nothing : Wrote i s s
  | tables (hi : i = .init) (hphase : s.phase = .uninit) : Wrote i s s.buildTables
  | bits {r : Nat} {a x : Bits} (hr : r < 64) (ha : s.blk r = some a) (hlen : x.length = a.length) :
      Wrote i s (s.putBlk r x)
  | create {r : Nat} (x : Bits) (hlife : createsOrDestroys i = true) : Wrote i s (s.putBlk r x)
  | destroy {r : Nat} (hlife : createsOrDestroys i = true) : Wrote i s (s.freeBlk r)
  | point {k : Nat} (p : Point) (hk : k < 64) (hpoints : writesPoints i = true) : Wrote i s (s.putPt k p)
  | acc (v : Word) (hacc : writesAcc i = true) : Wrote i s (s.putAcc v)
  | createAcc {r : Nat} (x : Bits) (v : Word) (hlife : createsOrDestroys i = true) (hacc : writesAcc i = true) :
      Wrote i s ((s.putBlk r x).putAcc v)
  | blocks {base : Nat} (xs : List Bits) (out : Nat) (hlife : createsOrDestroys i = true)
      (hacc : writesAcc i = true) (hnodata : writesNodata i = true) : Wrote i s ((s.putBlks base xs).arrayDone out)
  | points {base : Nat} (ts : List Point) (out : Nat) (hbase : base + ts.length ≤ 64)
      (hpoints : writesPoints i = true) (hacc : writesAcc i = true) (hnodata : writesNodata i = true) :
      Wrote i s ((s.putPts base ts).arrayDone out)

theorem Completed.wrote {i : Instr} {s t : State} (hc : Completed i s t) : Wrote i s t := by
  cases i with
  | init =>
    rcases hc with ⟨hphase, rfl⟩ | ⟨-, rfl⟩
    · exact .tables rfl hphase
    · exact .nothing
  | bcreate ra n =>
    obtain ⟨-, rfl⟩ := hc
    exact .create _ rfl
  | bdestroy ra =>
    obtain ⟨-, -, rfl⟩ := hc
    exact .destroy rfl
  | bget ra x =>
    obtain ⟨-, a, -, -, rfl⟩ := hc
    exact .acc _ rfl
  | bset ra x v =>
    obtain ⟨-, a, ha, -, rfl⟩ := hc
    exact .bits ra.isLt ha (withBit_length _ _ _)
  | bxori ra x v =>
    obtain ⟨-, a, ha, -, rfl⟩ := hc
    exact .bits ra.isLt ha (withBit_length _ _ _)
  | bcpbit ra x rb y =>
    obtain ⟨-, a, ha, b, -, -, -, rfl⟩ := hc
    exact .bits ra.isLt ha (withBit_length _ _ _)
  | bflip ra x =>
    obtain ⟨-, a, ha, -, rfl⟩ := hc
    exact .bits ra.isLt ha (withBit_length _ _ _)
  | bcmp ra x rb y =>
    obtain ⟨-, a, -, b, -, -, -, rfl⟩ := hc
    exact .acc _ rfl
  | btoint ra =>
    obtain ⟨-, a, -, rfl⟩ := hc
    exact .acc _ rfl
  | bfromint ra value =>
    obtain ⟨-, a, ha, rfl⟩ := hc
    exact .bits ra.isLt ha (fromInteger_length _ _)
  | bfromstr ra chars =>
    obtain ⟨-, a, ha, -, rfl⟩ := hc
    exact .bits ra.isLt ha (fromString_length _ _)
  | bdivmod ra rb rc =>
    obtain ⟨-, d, -, g, -, -, -, rfl⟩ := hc
    exact .create _ rfl
  | bxor ra rb =>
    obtain ⟨-, a, ha, b, -, hlen, rfl⟩ := hc
    exact .bits ra.isLt ha (by rw [xorBits_length, ← hlen, Nat.min_self])
  | bmxor ra idxs =>
    obtain ⟨-, a, -, -, rfl⟩ := hc
    exact .acc _ rfl
  | bcopy ra x rb y n =>
    obtain ⟨-, a, ha, b, -, hdst, hsrc, rfl⟩ := hc
    exact .bits ra.isLt ha (copyRange_length hdst hsrc)
  | brechunk ra rb x n =>
    obtain ⟨-, -, xs, -, -, -, -, -, rfl⟩ := hc
    exact .blocks _ _ rfl rfl rfl
  | fenc ra rb sch x =>
    obtain ⟨-, f, -, -, xs, -, -, -, -, rfl⟩ := hc
    exact .blocks _ _ rfl rfl rfl
  | fdec ra rb sch x =>
    obtain ⟨-, f, -, -, xs, -, -, -, -, rfl⟩ := hc
    exact .blocks _ _ rfl rfl rfl
  | fsynrd ra sch x =>
    obtain ⟨-, f, -, -, rfl⟩ := hc
    exact .createAcc _ _ rfl rfl
  | fgenrd ra sch =>
    obtain ⟨-, f, -, rfl⟩ := hc
    exact .create _ rfl
  | mmod ra rb sch x =>
    obtain ⟨-, m, -, -, xs, hlen, -, -, hout, rfl⟩ := hc
    exact .points _ _ (by simpa [hlen] using hout) rfl rfl rfl
  | mdem ra rb sch x =>
    obtain ⟨-, m, -, -, ts, -, -, -, rfl⟩ := hc
    exact .blocks _ _ rfl rfl rfl
  | pset ra a b =>
    obtain ⟨-, rfl⟩ := hc
    exact .point _ ra.isLt rfl
  | pget ra y =>
    obtain ⟨-, p, -, rfl⟩ := hc
    exact .acc _ rfl
  | mtabrd ra sch x =>
    obtain ⟨-, m, -, -, rfl⟩ := hc
    exact .point _ ra.isLt rfl

/-- Every next state of a command: the fatal state of some cause, or the writes of a completed command. -/
theorem exec_wrote {i : Instr} {s t : State} (h : exec i s = .next t) :
    (∃ cause, t = fatalState s cause i.word) ∨ Wrote i s t := by
  rcases exec_next h with ⟨-, ⟨-, rfl⟩ | ⟨-, cause, -, rfl⟩⟩ | hc
  · exact .inl ⟨_, rfl⟩
  · exact .inl ⟨cause, rfl⟩
  · exact .inr hc.wrote

/-! ### What a step does to the phase and the tables (`10` R26, R34, `20` R48) -/

theorem SameControl.refl (s : State) : SameControl s s := by
  constructor <;> rfl

theorem SameControl.trans {s t u : State} (h : SameControl s t) (h' : SameControl t u) : SameControl s u where
  cfg := h'.cfg.trans h.cfg
  phase := h'.phase.trans h.phase
  fcause := h'.fcause.trans h.fcause
  fcmd := h'.fcmd.trans h.fcmd
  genr := h'.genr.trans h.genr
  st := h'.st.trans h.st
  ct := h'.ct.trans h.ct
  thr := h'.thr.trans h.thr
  opened := h'.opened.trans h.opened
  port := h'.port.trans h.port
  resetIn := h'.resetIn.trans h.resetIn

theorem sameControl_putBlks (s : State) (base : Nat) (xs : List Bits) : SameControl s (s.putBlks base xs) := by
  constructor <;> simp

theorem sameControl_putPts (s : State) (base : Nat) (ts : List Point) : SameControl s (s.putPts base ts) := by
  constructor <;> simp

/-- A completed command leaves the control part as it was, unless it is `INIT` building the tables. -/
theorem Wrote.control {i : Instr} {s t : State} (h : Wrote i s t) :
    SameControl s t ∨ (i = .init ∧ s.phase = .uninit ∧ t = s.buildTables) := by
  cases h with
  | nothing => exact .inl (.refl s)
  | tables hi hphase => exact .inr ⟨hi, hphase, rfl⟩
  | bits => exact .inl (sameControl_putBlk _ _ _)
  | create => exact .inl (sameControl_putBlk _ _ _)
  | destroy => exact .inl (sameControl_freeBlk _ _)
  | point => exact .inl (sameControl_putPt _ _ _)
  | acc => exact .inl (sameControl_putAcc _ _)
  | createAcc => exact .inl ((sameControl_putBlk _ _ _).trans (sameControl_putAcc _ _))
  | blocks => exact .inl ((sameControl_putBlks _ _ _).trans (sameControl_arrayDone _ _))
  | points => exact .inl ((sameControl_putPts _ _ _).trans (sameControl_arrayDone _ _))

/-- The configuration and the tables are the same: what every step but a reset and an `INIT` in UNINIT keeps. -/
structure SameSetup (s t : State) : Prop where
  cfg : t.cfg = s.cfg
  genr : t.genr = s.genr
  st : t.st = s.st
  ct : t.ct = s.ct
  thr : t.thr = s.thr

/-- The words taken from the port are no part of it. -/
theorem SameControl.setup {s t : State} {rest : List Word} (h : SameControl (s.accept rest) t) : SameSetup s t :=
  ⟨h.cfg, h.genr, h.st, h.ct, h.thr⟩

/-- Everything a step without reset can do to the phase and the tables: keep them all, build the tables for a
decoded `INIT` in UNINIT, or go to FATAL and keep the tables. -/
theorem step_setup {s t : State} (hreset : s.resetIn = false) (h : step s = .next t) :
    s.phase ≠ .fatal ∧
      ((SameSetup s t ∧ t.phase = s.phase) ∨
       (s.phase = .uninit ∧ ∃ rest, decode s.stream = .ok (.init, rest) ∧ t = (s.accept rest).buildTables) ∨
       (SameSetup s t ∧ t.phase = .fatal ∧ ∃ cause, t.fcause = causeCode cause)) := by
  obtain ⟨hreset', -⟩ | ⟨-, hphase, hcase⟩ := step_next h
  · simp [hreset] at hreset'
  refine ⟨hphase, ?_⟩
  obtain ⟨-, rfl⟩ | ⟨-, rfl⟩ | ⟨w, payload, rest, i, hfetch, hdecode, hexec⟩ |
    ⟨w, payload, rest, reason, -, -, rfl⟩ := hcase
  · exact .inl ⟨⟨rfl, rfl, rfl, rfl, rfl⟩, rfl⟩
  · exact .inl ⟨⟨rfl, rfl, rfl, rfl, rfl⟩, rfl⟩
  · obtain ⟨cause, rfl⟩ | hwrote := exec_wrote hexec
    · exact .inr (.inr ⟨⟨rfl, rfl, rfl, rfl, rfl⟩, rfl, cause, rfl⟩)
    · obtain hsame | ⟨rfl, huninit, rfl⟩ := hwrote.control
      · exact .inl ⟨hsame.setup, hsame.phase⟩
      · exact .inr (.inl ⟨huninit, rest, decode_eq_ok_iff.mpr ⟨w, payload, hfetch, hdecode⟩, rfl⟩)
  · exact .inr (.inr ⟨⟨rfl, rfl, rfl, rfl, rfl⟩, rfl, .badenum, rfl⟩)

/-- Settles O14: reset, or one of the three cases of `step_setup`. -/
theorem phaseMovesOnlyAsListed : Obligations.PhaseMovesOnlyAsListed := by
  intro s t h
  cases hreset : s.resetIn with
  | true =>
    obtain rfl := Host.Outcome.next.inj ((step_of_reset hreset).symm.trans h)
    exact .inl ⟨rfl, rfl⟩
  | false =>
    obtain ⟨hphase, hcase⟩ := step_setup hreset h
    refine .inr ⟨rfl, hphase, ?_⟩
    obtain ⟨-, hsame⟩ | ⟨huninit, rest, hdecode, rfl⟩ | ⟨-, hfatal, hcause⟩ := hcase
    · exact .inl hsame
    · exact .inr (.inl ⟨huninit, rfl, rest, hdecode⟩)
    · exact .inr (.inr ⟨hfatal, hcause⟩)

/-- Settles O19: reset keeps the configuration, and of the cases of `step_setup` only `INIT` writes a table. -/
theorem onlyInitWritesTheTables : Obligations.OnlyInitWritesTheTables := by
  intro s t h
  cases hreset : s.resetIn with
  | true =>
    obtain rfl := Host.Outcome.next.inj ((step_of_reset hreset).symm.trans h)
    exact ⟨rfl, nofun⟩
  | false =>
    obtain ⟨-, ⟨hsame, -⟩ | ⟨huninit, rest, hdecode, rfl⟩ | ⟨hsame, -⟩⟩ := step_setup hreset h
    · exact ⟨hsame.cfg, fun _ => .inl ⟨hsame.genr, hsame.st, hsame.ct, hsame.thr⟩⟩
    · exact ⟨rfl, fun _ => .inr ⟨huninit, rfl, rest, hdecode⟩⟩
    · exact ⟨hsame.cfg, fun _ => .inl ⟨hsame.genr, hsame.st, hsame.ct, hsame.thr⟩⟩

/-! ### `ACC` and `NODATA` (`10` R24, R25) -/

theorem Wrote.acc_eq {i : Instr} {s t : State} (h : Wrote i s t) (hi : writesAcc i = false) : t.acc = s.acc := by
  cases h with
  | acc v hacc => simp [hi] at hacc
  | createAcc x v _ hacc => simp [hi] at hacc
  | blocks xs out _ hacc => simp [hi] at hacc
  | points ts out _ _ hacc => simp [hi] at hacc
  | _ => rfl

theorem Wrote.nodata_eq {i : Instr} {s t : State} (h : Wrote i s t) (hi : writesNodata i = false) :
    t.nodata = s.nodata := by
  cases h with
  | blocks xs out _ _ hnodata => simp [hi] at hnodata
  | points ts out _ _ _ hnodata => simp [hi] at hnodata
  | _ => rfl

/-- Settles O16: a fatal error writes neither flag, and a completed command writes those it is listed for. -/
theorem onlyListedCommandsWriteAccAndNodata : Obligations.OnlyListedCommandsWriteAccAndNodata := by
  intro i s t h
  obtain ⟨cause, rfl⟩ | hwrote := exec_wrote h
  · exact ⟨fun _ => rfl, fun _ => rfl⟩
  · exact ⟨hwrote.acc_eq, hwrote.nodata_eq⟩

/-! ### The register files (`10` R21, R23) -/

theorem map_length_putBlk {s : State} {r : Nat} {a x : Bits} (hr : r < 64) (ha : s.blk r = some a)
    (hlen : x.length = a.length) (n : Nat) :
    ((s.putBlk r x).blk n).map List.length = (s.blk n).map List.length := by
  rw [blk_putBlk s hr, withBlk]
  split
  next h => simp [h, ha, hlen]
  next => rfl

theorem pt_putPt_ne_none {s : State} {k : Nat} (hk : k < 64) (p : Point) {n : Nat} (h : s.pt n ≠ none) :
    (s.putPt k p).pt n ≠ none := by
  rw [pt_putPt s hk, withPt]
  split
  · exact Option.some_ne_none p
  · exact h

theorem pt_putPts_ne_none {ts : List Point} {s : State} {base : Nat} (hbase : base + ts.length ≤ 64) {n : Nat}
    (h : s.pt n ≠ none) : (s.putPts base ts).pt n ≠ none := by
  induction ts generalizing s base with
  | nil => exact h
  | cons p ts ih =>
    rw [List.length_cons] at hbase
    exact ih (by omega) (pt_putPt_ne_none (by omega) p h)

theorem Wrote.blk_length {i : Instr} {s t : State} (h : Wrote i s t) (hi : createsOrDestroys i = false) (r : Nat) :
    (t.blk r).map List.length = (s.blk r).map List.length := by
  cases h with
  | bits hr ha hlen => exact map_length_putBlk hr ha hlen r
  | create x hlife => simp [hi] at hlife
  | destroy hlife => simp [hi] at hlife
  | createAcc x v hlife => simp [hi] at hlife
  | blocks xs out hlife => simp [hi] at hlife
  | _ => simp

theorem Wrote.pt_eq {i : Instr} {s t : State} (h : Wrote i s t) (hi : writesPoints i = false) (k : Nat) :
    t.pt k = s.pt k := by
  cases h with
  | point p _ hpoints => simp [hi] at hpoints
  | points ts out _ hpoints => simp [hi] at hpoints
  | _ => simp

theorem Wrote.pt_ne_none {i : Instr} {s t : State} (h : Wrote i s t) {k : Nat} (hk : s.pt k ≠ none) :
    t.pt k ≠ none := by
  cases hwrites : writesPoints i with
  | false => rwa [h.pt_eq hwrites]
  | true =>
    cases h with
    | point p hlt => exact pt_putPt_ne_none hlt p hk
    | points ts out hbase => exact pt_putPts_ne_none hbase hk
    | _ => simpa using hk

/-- Settles O18: a fatal error writes no register, and a completed command writes those it is listed for. -/
theorem registersChangeLifeOnlyByTheirCommands : Obligations.RegistersChangeLifeOnlyByTheirCommands := by
  intro i s t h
  obtain ⟨cause, rfl⟩ | hwrote := exec_wrote h
  · exact ⟨fun _ _ => rfl, fun _ _ => rfl, fun _ hk => hk⟩
  · exact ⟨hwrote.blk_length, hwrote.pt_eq, fun _ => hwrote.pt_ne_none⟩

/-! ### Commands run with other flags (`10` R24, R25) -/

/-- The state with these values of `ACC` and `NODATA`. -/
def State.setFlags (s : State) (v : Word) (nd : Bool) : State := { s with acc := v, nodata := nd }

section SetFlags

variable (s : State) (v : Word) (nd : Bool)

@[simp] theorem setFlags_cfg : (s.setFlags v nd).cfg = s.cfg := rfl
@[simp] theorem setFlags_phase : (s.setFlags v nd).phase = s.phase := rfl
@[simp] theorem setFlags_genr : (s.setFlags v nd).genr = s.genr := rfl
@[simp] theorem setFlags_st : (s.setFlags v nd).st = s.st := rfl
@[simp] theorem setFlags_acc : (s.setFlags v nd).acc = v := rfl
@[simp] theorem setFlags_nodata : (s.setFlags v nd).nodata = nd := rfl
@[simp] theorem setFlags_blk (r : Nat) : (s.setFlags v nd).blk r = s.blk r := rfl
@[simp] theorem setFlags_pt (k : Nat) : (s.setFlags v nd).pt k = s.pt k := rfl
@[simp] theorem setFlags_tablePoint (m : ModScheme) (cw : Nat) :
    (s.setFlags v nd).tablePoint m cw = s.tablePoint m cw := rfl
@[simp] theorem setFlags_demodulate (m : ModScheme) (p : Point) :
    (s.setFlags v nd).demodulate m p = s.demodulate m p := rfl

/-! The checks read neither flag. -/

@[simp] theorem needBlk_setFlags (r : Nat) : needBlk (s.setFlags v nd) r = needBlk s r := rfl
@[simp] theorem needPt_setFlags (k : Nat) : needPt (s.setFlags v nd) k = needPt s k := rfl

@[simp] theorem sourceBlks_setFlags (base n : Nat) :
    sourceBlks (s.setFlags v nd) base n = sourceBlks s base n := by
  induction n generalizing base with
  | zero => rfl
  | succ n ih => simp only [sourceBlks, setFlags_blk, ih]

@[simp] theorem sourcePts_setFlags (base n : Nat) :
    sourcePts (s.setFlags v nd) base n = sourcePts s base n := by
  induction n generalizing base with
  | zero => rfl
  | succ n ih => simp only [sourcePts, setFlags_pt, ih]

/-! The writes to other parts go past the flags, and the writes to a flag hide what it held. -/

@[simp] theorem putBlk_setFlags (r : Nat) (x : Bits) :
    (s.setFlags v nd).putBlk r x = (s.putBlk r x).setFlags v nd := rfl
@[simp] theorem freeBlk_setFlags (r : Nat) : (s.setFlags v nd).freeBlk r = (s.freeBlk r).setFlags v nd := rfl
@[simp] theorem putPt_setFlags (k : Nat) (p : Point) :
    (s.setFlags v nd).putPt k p = (s.putPt k p).setFlags v nd := rfl
@[simp] theorem putAcc_setFlags (w : Word) : (s.setFlags v nd).putAcc w = (s.putAcc w).setFlags w nd := rfl
@[simp] theorem arrayDone_setFlags (out : Nat) : (s.setFlags v nd).arrayDone out = s.arrayDone out := rfl

@[simp] theorem putBlks_setFlags (base : Nat) (xs : List Bits) :
    (s.setFlags v nd).putBlks base xs = (s.putBlks base xs).setFlags v nd := by
  induction xs generalizing s base with
  | nil => rfl
  | cons x xs ih => rw [State.putBlks, putBlk_setFlags, ih, State.putBlks]

@[simp] theorem putPts_setFlags (base : Nat) (ts : List Point) :
    (s.setFlags v nd).putPts base ts = (s.putPts base ts).setFlags v nd := by
  induction ts generalizing s base with
  | nil => rfl
  | cons p ts ih => rw [State.putPts, putPt_setFlags, ih, State.putPts]

end SetFlags

/-- The state `t` that command `i` leaves, seen from other flags before it: a flag that `i` writes is as in `t`,
and one that it does not write still has its other value. -/
def State.refreshFlags (t : State) (i : Instr) (v : Word) (nd : Bool) : State :=
  t.setFlags (if writesAcc i then t.acc else v) (if writesNodata i then t.nodata else nd)

/-- A command whose body commutes with the change of flags does the same from both states: it raises the same cause,
or both complete. -/
theorem command_setFlags {i : Instr} {s t : State} {body body' : Checked State} {v : Word} {nd : Bool}
    (hbody : body' = (fun u => u.refreshFlags i v nd) <$> body) (h : command i s body = .next t) :
    (command i (s.setFlags v nd) body' = .next (t.setFlags v nd) ∧ t.acc = s.acc ∧ t.nodata = s.nodata) ∨
      command i (s.setFlags v nd) body' = .next (t.refreshFlags i v nd) := by
  obtain ⟨hphase, rfl⟩ | ⟨hphase, rfl⟩ | ⟨hphase, cause, rfl, rfl⟩ := command_next h
  · exact .inl ⟨command_uninit hphase, rfl, rfl⟩
  · exact .inr (command_ready_ok hphase hbody)
  · exact .inl ⟨command_ready_error hphase hbody, rfl, rfl⟩

/-- The common form of `FENC` and `FDEC` reads neither flag and writes both. -/
theorem codeArray_setFlags {i : Instr} (hacc : writesAcc i = true) (hnodata : writesNodata i = true) (ra rb : RegIx)
    (count : Nat) (size : Option Nat) (f : Bits → Bits) (s : State) (v : Word) (nd : Bool) :
    codeArray ra rb count size f (s.setFlags v nd) =
      (fun u => u.refreshFlags i v nd) <$> codeArray ra rb count size f s := by
  simp only [codeArray, sourceBlks_setFlags, putBlks_setFlags, arrayDone_setFlags, map_bind, State.refreshFlags, hacc,
    hnodata, if_true]
  rfl

/-- Every command, run with other flags, raises the same error or completes in the same state but for the flags
that it does not write. -/
theorem exec_setFlags {i : Instr} {s t : State} (v : Word) (nd : Bool) (h : exec i s = .next t) :
    (exec i (s.setFlags v nd) = .next (t.setFlags v nd) ∧ t.acc = s.acc ∧ t.nodata = s.nodata) ∨
      exec i (s.setFlags v nd) = .next (t.refreshFlags i v nd) := by
  cases i with
  | init =>
    obtain ⟨hinit, -⟩ | ⟨hphase, rfl⟩ | ⟨hphase, rfl⟩ := exec_next h
    · exact absurd rfl hinit
    · exact .inr (by simp only [exec, execInit, setFlags_phase, hphase]; rfl)
    · exact .inr (by simp only [exec, execInit, setFlags_phase, hphase]; rfl)
  | pset ra a b => exact command_setFlags (i := .pset ra a b) (body := .ok _) rfl h
  | fenc ra rb sch x =>
    refine command_setFlags ?_ h
    simp only [setFlags_cfg, setFlags_genr, map_bind,
      codeArray_setFlags (i := .fenc ra rb sch x) rfl rfl]
  | fdec ra rb sch x =>
    refine command_setFlags ?_ h
    simp only [setFlags_cfg, setFlags_genr, setFlags_st, map_bind,
      codeArray_setFlags (i := .fdec ra rb sch x) rfl rfl]
  | brechunk ra rb x n =>
    refine command_setFlags ?_ h
    simp only [sourceBlks_setFlags, putBlks_setFlags, map_bind]
    rfl
  | mmod ra rb sch x =>
    refine command_setFlags ?_ h
    simp only [sourceBlks_setFlags, setFlags_tablePoint, putPts_setFlags, map_bind]
    rfl
  | mdem ra rb sch x =>
    refine command_setFlags ?_ h
    simp only [sourcePts_setFlags, setFlags_demodulate, putBlks_setFlags, map_bind]
    rfl
  | _ =>
    refine command_setFlags ?_ h
    simp only [needBlk_setFlags, needPt_setFlags, setFlags_cfg, setFlags_genr, setFlags_st, setFlags_tablePoint,
      putBlk_setFlags, freeBlk_setFlags, putPt_setFlags, putAcc_setFlags, map_bind]
    rfl

/-- Settles O17: by `exec_setFlags`; a flag that the command is not listed for keeps its value in both runs. -/
theorem accAndNodataAreNeverRead : Obligations.AccAndNodataAreNeverRead := by
  intro i s t v nd h
  obtain ⟨hkeepAcc, hkeepNodata⟩ := onlyListedCommandsWriteAccAndNodata i s t h
  obtain ⟨hrun, hacc, hnodata⟩ | hrun := exec_setFlags v nd h
  · exact ⟨_, hrun, rfl, .inr ⟨hacc, rfl⟩, .inr ⟨hnodata, rfl⟩⟩
  refine ⟨_, hrun, rfl, ?_, ?_⟩
  · cases hwrites : writesAcc i with
    | true => exact .inl (if_pos hwrites)
    | false => exact .inr ⟨hkeepAcc hwrites, if_neg (by simp [hwrites])⟩
  · cases hwrites : writesNodata i with
    | true => exact .inl (if_pos hwrites)
    | false => exact .inr ⟨hkeepNodata hwrites, if_neg (by simp [hwrites])⟩

end Sys2Proof.Machine
end

section
/-! What the statements about the encoding (`30` R60 to R69) rest on: payload lists packed into words and read back,
the fields of an encoded command, what the decoder accepts, and the opcode table row by row. -/

namespace Sys2Proof

/-! ### A word and its fields (R61) -/

theorem word_ext_fields_iff {v w : Word} : v = w ↔
    fieldOp v = fieldOp w ∧ fieldRa v = fieldRa w ∧ fieldRb v = fieldRb w ∧ fieldC v = fieldC w ∧
    fieldZ v = fieldZ w ∧ fieldX v = fieldX w ∧ fieldY v = fieldY w ∧ fieldN v = fieldN w := by
  constructor
  · rintro rfl
    simp only [and_self]
  · rintro ⟨hop, hra, hrb, hc, hz, hx, hy, hn⟩
    exact word_ext_fields hop hra hrb hc hz hx hy hn

/-! ### Payload lists in payload words (R64) -/

section Lanes

variable {α : Type} {m : Nat} (lane : Word → Nat → α)

/-- A list read from words, `m` lanes a word: element `k` is lane `k mod m` of word `k div m`. -/
theorem getElem?_flatMap_lanes (hm : 0 < m) (ws : List Word) (k : Nat) :
    (ws.flatMap fun w => (List.range m).map (lane w))[k]? = ws[k / m]?.map (lane · (k % m)) := by
  induction ws generalizing k with
  | nil => simp
  | cons w ws ih =>
    rw [List.flatMap_cons]
    obtain hk | hk := Nat.lt_or_ge k m
    · rw [List.getElem?_append_left (by simpa), Nat.div_eq_of_lt hk, Nat.mod_eq_of_lt hk]
      simp [hk]
    · have hdiv : k / m = (k - m) / m + 1 := Nat.div_eq_sub_div hm hk
      have hmod : k % m = (k - m) % m := Nat.mod_eq_sub_mod hk
      rw [List.getElem?_append_right (by simpa), List.length_map, List.length_range, ih, hdiv, hmod,
        List.getElem?_cons_succ]

theorem exists_lane_of_getElem?_take (hm : 0 < m) {ws : List Word} {n k : Nat} {x : α}
    (hx : ((ws.flatMap fun w => (List.range m).map (lane w)).take n)[k]? = some x) :
    ∃ w, ws[k / m]? = some w ∧ x = lane w (k % m) := by
  rw [List.getElem?_take, Option.ite_none_right_eq_some, getElem?_flatMap_lanes lane hm] at hx
  obtain ⟨w, hw, hlane⟩ := Option.map_eq_some_iff.mp hx.2
  exact ⟨w, hw, hlane.symm⟩

/-- Words whose lanes spell a list read back as that list. -/
theorem take_flatMap_lanes {ws : List Word} {l : List α} (hm : 0 < m)
    (hlane : ∀ k x, l[k]? = some x → ∃ w, ws[k / m]? = some w ∧ lane w (k % m) = x) :
    (ws.flatMap fun w => (List.range m).map (lane w)).take l.length = l := by
  apply List.ext_getElem?
  intro k
  rw [List.getElem?_take, getElem?_flatMap_lanes lane hm]
  split
  next hk =>
    obtain ⟨w, hw, hx⟩ := hlane k _ (List.getElem?_eq_getElem hk)
    rw [hw, Option.map_some, hx, List.getElem?_eq_getElem hk]
  next hk => rw [List.getElem?_eq_none (Nat.le_of_not_lt hk)]

end Lanes

/-- Character `j` of a payload word. -/
def byteLane (w : Word) (j : Nat) : Byte := w.extractLsb' (56 - 8 * j) 8

/-- Index `j` of a payload word. -/
def indexLane (w : Word) (j : Nat) : Lane := w.extractLsb' (48 - 16 * j) 16

theorem bytesOfWord_eq : bytesOfWord = fun w => (List.range 8).map (byteLane w) := rfl

theorem lanesOfWord_eq : lanesOfWord = fun w => (List.range 4).map (indexLane w) := rfl

theorem byteLane_wordOfBytes (l : List Byte) {j : Nat} (hj : j < 8) : byteLane (wordOfBytes l) j = l.getD j 0 := by
  have hlt (k : Nat) : (l.getD k 0).toNat < 2 ^ 8 := (l.getD k 0).isLt
  have h0 := hlt 0
  have h1 := hlt 1
  have h2 := hlt 2
  have h3 := hlt 3
  have h4 := hlt 4
  have h5 := hlt 5
  have h6 := hlt 6
  have h7 := hlt 7
  apply BitVec.eq_of_toNat_eq
  rw [byteLane, extract_toNat, wordOfBytes, BitVec.toNat_ofNat]
  interval_cases j <;> omega

theorem indexLane_wordOfLanes (l : List Lane) {j : Nat} (hj : j < 4) : indexLane (wordOfLanes l) j = l.getD j 0 := by
  have hlt (k : Nat) : (l.getD k 0).toNat < 2 ^ 16 := (l.getD k 0).isLt
  have h0 := hlt 0
  have h1 := hlt 1
  have h2 := hlt 2
  have h3 := hlt 3
  apply BitVec.eq_of_toNat_eq
  rw [indexLane, extract_toNat, wordOfLanes, BitVec.toNat_ofNat]
  interval_cases j <;> omega

theorem packBytes_getElem? {n j : Nat} (hj : j < n) (l : List Byte) :
    (packBytes n l)[j]? = some (wordOfBytes (l.drop (8 * j))) := by
  induction n generalizing j l with
  | zero => omega
  | succ n ih =>
    cases j with
    | zero => rfl
    | succ j => rw [packBytes, List.getElem?_cons_succ, ih (by omega), List.drop_drop, Nat.mul_succ, Nat.add_comm 8]

theorem packLanes_getElem? {n j : Nat} (hj : j < n) (l : List Lane) :
    (packLanes n l)[j]? = some (wordOfLanes (l.drop (4 * j))) := by
  induction n generalizing j l with
  | zero => omega
  | succ n ih =>
    cases j with
    | zero => rfl
    | succ j => rw [packLanes, List.getElem?_cons_succ, ih (by omega), List.drop_drop, Nat.mul_succ, Nat.add_comm 4]

/-- Element `k` of a list, read in the part that a payload word packs. -/
theorem getD_drop_of_getElem? {α : Type} {l : List α} {m k : Nat} {x d : α} (hx : l[k]? = some x) :
    (l.drop (m * (k / m))).getD (k % m) d = x := by
  rw [List.getD_eq_getElem?_getD, List.getElem?_drop, Nat.div_add_mod, hx, Option.getD_some]

/-- A packed string reads back. -/
theorem take_flatMap_packBytes (l : List Byte) :
    ((packBytes ((l.length + 7) / 8) l).flatMap bytesOfWord).take l.length = l := by
  rw [bytesOfWord_eq]
  refine take_flatMap_lanes _ (by decide) fun k x hx => ?_
  obtain ⟨hk, -⟩ := List.getElem?_eq_some_iff.mp hx
  refine ⟨_, packBytes_getElem? (by omega) l, ?_⟩
  rw [byteLane_wordOfBytes _ (Nat.mod_lt _ (by decide)), getD_drop_of_getElem? hx]

/-- A packed index list reads back. -/
theorem take_flatMap_packLanes (l : List Lane) :
    ((packLanes ((l.length + 3) / 4) l).flatMap lanesOfWord).take l.length = l := by
  rw [lanesOfWord_eq]
  refine take_flatMap_lanes _ (by decide) fun k x hx => ?_
  obtain ⟨hk, -⟩ := List.getElem?_eq_some_iff.mp hx
  refine ⟨_, packLanes_getElem? (by omega) l, ?_⟩
  rw [indexLane_wordOfLanes _ (Nat.mod_lt _ (by decide)), getD_drop_of_getElem? hx]

/-! ### The decoder (R66, R67) -/

theorem yBit_eq_ok_iff {w : Word} {v : Bool} : yBit w = .ok v ↔ fieldY w = bitField v := by
  have hy : fieldY w = bitField v ↔ (fieldY w).toNat = (bitField v).toNat := BitVec.toNat_inj.symm
  rw [hy]
  unfold yBit
  split <;> cases v <;> simp_all [bitField]

/-- A command that takes field `y` as a bit decodes iff `y` is 0 or 1 (R67 d). -/
theorem map_yBit_eq_ok_iff {w : Word} {f : Bool → Instr} {i : Instr} :
    (yBit w).map f = .ok i ↔ ∃ v, fieldY w = bitField v ∧ f v = i := by
  simp only [← yBit_eq_ok_iff]
  cases yBit w <;> simp [Except.map]

theorem ofByte_eq_some_iff {b : BitVec 8} {o : Opcode} : Opcode.ofByte b = some o ↔ b = o.byte :=
  ⟨fun h => (byte_of_ofByte h).symm, fun h => h ▸ ofByte_byte o⟩

/-- All that the decoder asks of a word, and what it answers. -/
theorem decodeCommand_eq_ok_iff {w : Word} {payload : List Word} {i : Instr} :
    decodeCommand w payload = .ok i ↔
      ∃ o : Opcode, fieldOp w = o.byte ∧ fieldZ w = 0 ∧ unusedZero o.uses w = true ∧
        operands o w payload = .ok i := by
  simp only [← ofByte_eq_some_iff]
  unfold decodeCommand
  cases Opcode.ofByte (fieldOp w) with
  | none => simp
  | some o =>
    simp only [Option.some.injEq, exists_eq_left']
    split
    next hz =>
      split
      next hu => simp only [hz, hu, true_and]
      next hu => simp [hu]
    next hz => simp only [hz, false_and, reduceCtorEq]

theorem exists_map_yBit_iff {w : Word} {f : Bool → Instr} :
    (∃ i, (yBit w).map f = .ok i) ↔ ∃ v, fieldY w = bitField v := by
  simp only [map_yBit_eq_ok_iff]
  exact ⟨fun ⟨_, v, hv, _⟩ => ⟨v, hv⟩, fun ⟨v, hv⟩ => ⟨f v, v, hv, rfl⟩⟩

/-- The commands whose field `y` must be 0 or 1 (R67 d). -/
def Opcode.yIsBit : Opcode → Bool
  | .BSET | .BXORI | .PGET => true
  | _ => false

theorem uses_y_of_yIsBit {o : Opcode} (h : o.yIsBit = true) : o.uses.y = true := by
  cases o with
  | BSET | BXORI | PGET => rfl
  | _ => cases h

theorem exists_operands_iff {o : Opcode} {w : Word} {payload : List Word} :
    (∃ i, operands o w payload = .ok i) ↔ (o.yIsBit = true → ∃ v, fieldY w = bitField v) := by
  cases o with
  | BSET | BXORI | PGET => simp only [operands, exists_map_yBit_iff, Opcode.yIsBit, true_imp_iff]
  | _ => simp [operands, Opcode.yIsBit]

theorem opcode_of_operands {o : Opcode} {w : Word} {payload : List Word} {i : Instr}
    (h : operands o w payload = .ok i) : i.opcode = o := by
  cases o with
  | BSET | BXORI | PGET =>
    obtain ⟨v, -, rfl⟩ := map_yBit_eq_ok_iff.mp h
    rfl
  | _ =>
    obtain rfl := Except.ok.inj h
    rfl

/-! ### The length rule (R65) -/

/-- The number of payload words by command, `n` being field `n`. -/
def Opcode.payloadCount (o : Opcode) (n : Num12) : Nat :=
  match o with
  | .BFROMINT => 1
  | .BFROMSTR => (n.toNat + 7) / 8
  | .BMXOR => (n.toNat + 3) / 4
  | .PSET => 2
  | _ => 0

theorem payloadWords_of_op {w : Word} {o : Opcode} (hop : fieldOp w = o.byte) :
    payloadWords w = o.payloadCount (fieldN w) := by
  rw [payloadWords, hop]
  cases o <;> simp [Opcode.byte, Opcode.payloadCount]

/-- The length rule gives the payload of every well-formed command. -/
theorem payloadWords_word {i : Instr} (h : i.wf = true) : payloadWords i.word = i.payload.length := by
  cases i with
  | bfromstr ra chars => exact Laws.PayloadLength.bfromstr ra chars h
  | bmxor ra idxs => exact Laws.PayloadLength.bmxor ra idxs h
  | _ => exact Laws.PayloadLength.payloadWords_packWord _ _

theorem fetch_cons_append {w : Word} {payload : List Word} (rest : List Word)
    (h : payload.length = payloadWords w) : fetch (w :: (payload ++ rest)) = .command w payload rest := by
  simp [fetch, ← h]

/-- As many elements as field `n` says, when the payload has its length by R65. -/
theorem length_take_flatMap {α : Type} {f : Word → List α} {m n : Nat} {payload : List Word}
    (hf : ∀ p, (f p).length = m) (hn : n ≤ payload.length * m) : ((payload.flatMap f).take n).length = n := by
  simpa [List.length_flatMap, hf] using hn

/-! ### From commands to words and back (R62, R78) -/

theorem unusedZero_word (i : Instr) : unusedZero i.opcode.uses i.word = true := by
  cases i <;> simp [unusedZero, Instr.word, Instr.opcode, Opcode.uses, Instr.fields]

/-- The operands of an encoded command are read back, payload lists included. -/
theorem operands_word {i : Instr} (h : i.wf = true) : operands i.opcode i.word i.payload = .ok i := by
  cases i with
  | bset ra x v | bxori ra x v =>
    exact map_yBit_eq_ok_iff.mpr ⟨v, by simp [Instr.word, Instr.fields], by simp [Instr.word, Instr.fields]⟩
  | pget ra y =>
    refine map_yBit_eq_ok_iff.mpr ⟨y == .Q, ?_, ?_⟩
    · cases y <;> simp [Instr.word, Instr.fields, bitField, compField]
    · cases y <;> simp [Instr.word, Instr.fields, compOf]
  | bfromstr ra chars =>
    have hlen : chars.length % 4096 = chars.length := Nat.mod_eq_of_lt (Nat.lt_succ_of_le (of_decide_eq_true h))
    simp [operands, Instr.word, Instr.opcode, Instr.fields, Instr.payload, hlen, take_flatMap_packBytes]
  | bmxor ra idxs =>
    have hlen : idxs.length % 4096 = idxs.length := Nat.mod_eq_of_lt (Nat.lt_succ_of_le (of_decide_eq_true h))
    simp [operands, Instr.word, Instr.opcode, Instr.fields, Instr.payload, hlen, take_flatMap_packLanes]
  | _ => simp [operands, Instr.word, Instr.opcode, Instr.fields, Instr.payload]

theorem decodeCommand_word {i : Instr} (h : i.wf = true) : decodeCommand i.word i.payload = .ok i :=
  decodeCommand_eq_ok_iff.mpr
    ⟨i.opcode, fieldOp_packWord _ _, fieldZ_packWord _ _, unusedZero_word i, operands_word h⟩

/-- The fields of a word as a record, `op` and `z` left out. -/
def Fields.ofWord (w : Word) : Fields :=
  { ra := fieldRa w, rb := fieldRb w, c := fieldC w, x := fieldX w, y := fieldY w, n := fieldN w }

theorem packWord_ofWord {op : BitVec 8} {w : Word} (hop : fieldOp w = op) (hz : fieldZ w = 0) :
    packWord op (Fields.ofWord w) = w := by
  apply word_ext_fields <;> simp [Fields.ofWord, hop, hz]

section Decoded

variable {o : Opcode} {w : Word} {payload : List Word} {i : Instr}

/-- The payload lists of a decoded command are as long as field `n` says. -/
theorem length_chars (hop : fieldOp w = Opcode.BFROMSTR.byte) (hlen : payload.length = payloadWords w) :
    ((payload.flatMap bytesOfWord).take (fieldN w).toNat).length = (fieldN w).toNat := by
  have hcount : payload.length = ((fieldN w).toNat + 7) / 8 := hlen.trans (payloadWords_of_op hop)
  exact length_take_flatMap (m := 8) (fun _ => rfl) (by omega)

theorem length_idxs (hop : fieldOp w = Opcode.BMXOR.byte) (hlen : payload.length = payloadWords w) :
    ((payload.flatMap lanesOfWord).take (fieldN w).toNat).length = (fieldN w).toNat := by
  have hcount : payload.length = ((fieldN w).toNat + 3) / 4 := hlen.trans (payloadWords_of_op hop)
  exact length_take_flatMap (m := 4) (fun _ => rfl) (by omega)

/-- The fields of a decoded command are those of its word: the fields it does not use are 0 in both. -/
theorem fields_of_operands (hop : fieldOp w = o.byte) (hlen : payload.length = payloadWords w)
    (hused : unusedZero o.uses w = true) (h : operands o w payload = .ok i) : i.fields = Fields.ofWord w := by
  cases o with
  | BSET | BXORI =>
    obtain ⟨v, hv, rfl⟩ := map_yBit_eq_ok_iff.mp h
    simp_all [unusedZero, Opcode.uses, Instr.fields, Fields.ofWord]
  | PGET =>
    obtain ⟨v, hv, rfl⟩ := map_yBit_eq_ok_iff.mp h
    have hcomp : compField (compOf v) = bitField v := by cases v <;> rfl
    simp_all [unusedZero, Opcode.uses, Instr.fields, Fields.ofWord]
  | BFROMSTR =>
    obtain rfl := Except.ok.inj h
    simp_all [unusedZero, Opcode.uses, Instr.fields, Fields.ofWord, length_chars hop hlen]
  | BMXOR =>
    obtain rfl := Except.ok.inj h
    simp_all [unusedZero, Opcode.uses, Instr.fields, Fields.ofWord, length_idxs hop hlen]
  | _ =>
    obtain rfl := Except.ok.inj h
    simp_all [unusedZero, Opcode.uses, Instr.fields, Fields.ofWord]

theorem wf_of_operands (h : operands o w payload = .ok i) : i.wf = true := by
  cases o with
  | BSET | BXORI | PGET =>
    obtain ⟨v, -, rfl⟩ := map_yBit_eq_ok_iff.mp h
    rfl
  | BFROMSTR | BMXOR =>
    obtain rfl := Except.ok.inj h
    have hn : (fieldN w).toNat ≤ maxField := Nat.le_of_lt_succ (fieldN w).isLt
    exact decide_eq_true ((List.length_take_le _ _).trans hn)
  | _ =>
    obtain rfl := Except.ok.inj h
    rfl

theorem word_of_decodeCommand (hlen : payload.length = payloadWords w) (h : decodeCommand w payload = .ok i) :
    i.word = w := by
  obtain ⟨o, hop, hz, hused, hoperands⟩ := decodeCommand_eq_ok_iff.mp h
  rw [Instr.word, opcode_of_operands hoperands, fields_of_operands hop hlen hused hoperands, packWord_ofWord hop hz]

theorem wf_of_decodeCommand (h : decodeCommand w payload = .ok i) : i.wf = true := by
  obtain ⟨o, -, -, -, hoperands⟩ := decodeCommand_eq_ok_iff.mp h
  exact wf_of_operands hoperands

/-- A decoded command has the opcode of its word and the operands that this opcode reads from it. -/
theorem operands_of_decodeCommand (h : decodeCommand w payload = .ok i) :
    fieldOp w = i.opcode.byte ∧ operands i.opcode w payload = .ok i := by
  obtain ⟨o, hop, -, -, hoperands⟩ := decodeCommand_eq_ok_iff.mp h
  obtain rfl := opcode_of_operands hoperands
  exact ⟨hop, hoperands⟩

end Decoded

/-! ### The opcode table (R66, R69) -/

/-- All checks of R67 a to d pass for the command of opcode `o`. -/
def LegalAs (o : Opcode) (w : Word) : Prop :=
  fieldOp w = o.byte ∧ fieldZ w = 0 ∧ unusedZero o.uses w = true ∧
    (o.yIsBit = true → ∃ v, fieldY w = bitField v)

theorem exists_decodeCommand_iff {w : Word} {payload : List Word} :
    (∃ i, decodeCommand w payload = .ok i) ↔ ∃ o, LegalAs o w := by
  constructor
  · rintro ⟨i, h⟩
    obtain ⟨o, hop, hz, hused, hoperands⟩ := decodeCommand_eq_ok_iff.mp h
    exact ⟨o, hop, hz, hused, exists_operands_iff.mp ⟨i, hoperands⟩⟩
  · rintro ⟨o, hop, hz, hused, hy⟩
    obtain ⟨i, hoperands⟩ := exists_operands_iff.mpr hy
    exact ⟨i, decodeCommand_eq_ok_iff.mpr ⟨o, hop, hz, hused, hoperands⟩⟩

/-- A field that may take any value, or none but 0. -/
def freeField (k : Nat) (used : Bool) : BitVec k := if used then BitVec.allOnes k else 0

/-- The operand bits of a command word: those that the mask of its row leaves out. -/
def Opcode.freeBits (o : Opcode) : Fields :=
  { ra := freeField 6 o.uses.ra, rb := freeField 6 o.uses.rb, c := freeField 6 o.uses.c,
    x := freeField 12 o.uses.x, y := if o.yIsBit then bitField true else freeField 12 o.uses.y,
    n := freeField 12 o.uses.n }

/-- The twenty-six opcodes, in the order of the table. -/
def allOpcodes : List Opcode :=
  [.INIT, .BCREATE, .BDESTROY, .BGET, .BSET, .BXORI, .BCPBIT, .BFLIP, .BCMP, .BTOINT, .BFROMINT, .BFROMSTR, .BDIVMOD,
   .BXOR, .BMXOR, .BCOPY, .BRECHUNK, .FENC, .FDEC, .FSYNRD, .FGENRD, .MMOD, .MDEM, .PSET, .PGET, .MTABRD]

theorem mem_allOpcodes (o : Opcode) : o ∈ allOpcodes := by cases o <;> decide

/-- Each row of the table has its command's opcode and no other bit as value, and masks all but its operand bits. -/
theorem opcodeRows_eq :
    Machine.opcodeRows.map (fun row => (row.value, row.mask)) =
      allOpcodes.map fun o => (packWord o.byte {}, ~~~packWord 0 o.freeBits) :=
  rfl

theorem matchesTable_iff_exists_opcode {w : Word} :
    Machine.matchesTable w ↔ ∃ o : Opcode, w &&& ~~~packWord 0 o.freeBits = packWord o.byte {} := by
  have hrow (p : Word × Word) : (∃ row ∈ Machine.opcodeRows, (row.value, row.mask) = p) ↔
      ∃ o : Opcode, (packWord o.byte {}, ~~~packWord 0 o.freeBits) = p := by
    rw [← List.mem_map, opcodeRows_eq, List.mem_map]
    simp only [mem_allOpcodes, true_and]
  constructor
  · rintro ⟨row, hmem, hmatch⟩
    obtain ⟨o, ho⟩ := (hrow _).mp ⟨row, hmem, rfl⟩
    obtain ⟨hvalue, hmask⟩ := Prod.mk.inj ho
    exact ⟨o, by rw [hvalue, hmask, hmatch]⟩
  · rintro ⟨o, hmatch⟩
    obtain ⟨row, hmem, hrow⟩ := (hrow _).mpr ⟨o, rfl⟩
    obtain ⟨hvalue, hmask⟩ := Prod.mk.inj hrow
    exact ⟨row, hmem, by rw [hvalue, hmask, hmatch]⟩

theorem extract_and_not (v w : Word) {lo len : Nat} (h : lo + len ≤ 64) :
    (v &&& ~~~w).extractLsb' lo len = v.extractLsb' lo len &&& ~~~w.extractLsb' lo len := by
  ext j hj
  have hbit : lo + j < 64 := by omega
  simp [hbit]

/-- A word matches a row iff each of its fields does, outside the operand bits. -/
theorem and_not_eq_packWord_iff {w : Word} {free f : Fields} {op : BitVec 8} :
    w &&& ~~~packWord 0 free = packWord op f ↔
      fieldOp w = op ∧ fieldRa w &&& ~~~free.ra = f.ra ∧ fieldRb w &&& ~~~free.rb = f.rb ∧
      fieldC w &&& ~~~free.c = f.c ∧ fieldZ w = 0 ∧ fieldX w &&& ~~~free.x = f.x ∧
      fieldY w &&& ~~~free.y = f.y ∧ fieldN w &&& ~~~free.n = f.n := by
  have hop (v : Word) : fieldOp (w &&& ~~~v) = fieldOp w &&& ~~~fieldOp v := extract_and_not w v (by decide)
  have hra (v : Word) : fieldRa (w &&& ~~~v) = fieldRa w &&& ~~~fieldRa v := extract_and_not w v (by decide)
  have hrb (v : Word) : fieldRb (w &&& ~~~v) = fieldRb w &&& ~~~fieldRb v := extract_and_not w v (by decide)
  have hc (v : Word) : fieldC (w &&& ~~~v) = fieldC w &&& ~~~fieldC v := extract_and_not w v (by decide)
  have hz (v : Word) : fieldZ (w &&& ~~~v) = fieldZ w &&& ~~~fieldZ v := extract_and_not w v (by decide)
  have hx (v : Word) : fieldX (w &&& ~~~v) = fieldX w &&& ~~~fieldX v := extract_and_not w v (by decide)
  have hy (v : Word) : fieldY (w &&& ~~~v) = fieldY w &&& ~~~fieldY v := extract_and_not w v (by decide)
  have hn (v : Word) : fieldN (w &&& ~~~v) = fieldN w &&& ~~~fieldN v := extract_and_not w v (by decide)
  have hkept {k : Nat} (v : BitVec k) : v &&& ~~~0 = v := by simp
  rw [word_ext_fields_iff]
  simp only [hop, hra, hrb, hc, hz, hx, hy, hn, fieldOp_packWord, fieldRa_packWord, fieldRb_packWord,
    fieldC_packWord, fieldZ_packWord, fieldX_packWord, fieldY_packWord, fieldN_packWord, hkept]

theorem and_not_freeField_eq_zero_iff {k : Nat} {v : BitVec k} {used : Bool} :
    v &&& ~~~freeField k used = 0 ↔ (used || v == 0) = true := by
  cases used <;> simp [freeField]

theorem and_not_bitField_eq_zero_iff {y : Num12} : y &&& ~~~bitField true = 0 ↔ ∃ v, y = bitField v := by
  constructor
  · intro h
    have hlow : y = y &&& 1#12 :=
      calc y = y &&& (1#12 ||| ~~~bitField true) := BitVec.and_allOnes.symm
        _ = y &&& 1#12 ||| y &&& ~~~bitField true := BitVec.and_or_distrib_left
        _ = y &&& 1#12 := by rw [h]; exact BitVec.or_zero
    rw [BitVec.and_one_eq_setWidth_ofBool_getLsbD] at hlow
    refine ⟨y.getLsbD 0, hlow.trans ?_⟩
    cases y.getLsbD 0 <;> rfl
  · rintro ⟨v, rfl⟩
    cases v <;> rfl

/-- Field `y`, where a command takes it as a bit, as a number or not at all. -/
theorem and_not_freeBits_y_eq_zero_iff {o : Opcode} {y : Num12} :
    y &&& ~~~o.freeBits.y = 0 ↔ (o.uses.y || y == 0) = true ∧ (o.yIsBit = true → ∃ v, y = bitField v) := by
  cases hbit : o.yIsBit with
  | true =>
    simp only [Opcode.freeBits, hbit, if_true, and_not_bitField_eq_zero_iff, uses_y_of_yIsBit hbit, Bool.true_or,
      true_and, true_imp_iff]
  | false =>
    simp only [Opcode.freeBits, hbit, Bool.false_eq_true, if_false, and_not_freeField_eq_zero_iff, false_imp_iff,
      and_true]

theorem legalAs_iff {o : Opcode} {w : Word} :
    LegalAs o w ↔ w &&& ~~~packWord 0 o.freeBits = packWord o.byte {} := by
  rw [LegalAs, and_not_eq_packWord_iff, and_not_freeBits_y_eq_zero_iff]
  simp only [Opcode.freeBits, and_not_freeField_eq_zero_iff, unusedZero, Bool.and_eq_true]
  tauto

theorem exists_decodeCommand_iff_matchesTable {w : Word} {payload : List Word} :
    (∃ i, decodeCommand w payload = .ok i) ↔ Machine.matchesTable w := by
  rw [exists_decodeCommand_iff, matchesTable_iff_exists_opcode]
  simp only [legalAs_iff]

end Sys2Proof

namespace Sys2Proof.Machine

/-- Settles O2: the rows of the table ask what the checks of the decoder ask, and the word of the command is
rebuilt from the fields of the word decoded. -/
theorem commandsAreTheTableRows : Obligations.CommandsAreTheTableRows := by
  intro w payload hlen
  refine ⟨exists_decodeCommand_iff_matchesTable, fun i h => ?_⟩
  have hwf := wf_of_decodeCommand h
  have hword := word_of_decodeCommand hlen h
  exact ⟨hwf, hword, by rw [← payloadWords_word hwf, hword, hlen]⟩

/-- Settles O1: the length rule cuts off the payload, and each field and payload list is read back. -/
theorem decodeOfEncodeGivesTheCommand : Obligations.DecodeOfEncodeGivesTheCommand := by
  intro i rest h
  exact decode_eq_ok_iff.mpr
    ⟨i.word, i.payload, fetch_cons_append rest (payloadWords_word h).symm, decodeCommand_word h⟩

/-- Settles O4: the payload has the length of its command, and element `k` of a list is a lane of word `k div m`. -/
theorem payloadLanesAreReadMostSignificantFirst : Obligations.PayloadLanesAreReadMostSignificantFirst := by
  intro w payload i hlen h
  obtain ⟨hop, hoperands⟩ := operands_of_decodeCommand h
  have hcount : payload.length = i.opcode.payloadCount (fieldN w) := hlen.trans (payloadWords_of_op hop)
  refine ⟨?_, ?_, ?_, ?_⟩
  · rintro ra v rfl
    obtain ⟨p, rfl⟩ := List.length_eq_one_iff.mp hcount
    obtain ⟨-, rfl⟩ := Instr.bfromint.inj (Except.ok.inj hoperands)
    rfl
  · rintro ra a b rfl
    obtain ⟨p, q, rfl⟩ := List.length_eq_two.mp hcount
    obtain ⟨-, rfl, rfl⟩ := Instr.pset.inj (Except.ok.inj hoperands)
    rfl
  · rintro ra chars rfl
    obtain ⟨-, rfl⟩ := Instr.bfromstr.inj (Except.ok.inj hoperands)
    exact ⟨length_chars hop hlen, fun k ch hch => exists_lane_of_getElem?_take byteLane (by decide) hch⟩
  · rintro ra idxs rfl
    obtain ⟨-, rfl⟩ := Instr.bmxor.inj (Except.ok.inj hoperands)
    exact ⟨length_idxs hop hlen, fun k ix hix => exists_lane_of_getElem?_take indexLane (by decide) hix⟩

/-! ### Illegal words and identifiers (`30` R67) -/

theorem exists_error_of_not_matchesTable {w : Word} (payload : List Word) (h : ¬ matchesTable w) :
    ∃ reason, decodeCommand w payload = .error reason := by
  cases hdecode : decodeCommand w payload with
  | ok i => exact absurd (exists_decodeCommand_iff_matchesTable.mp ⟨i, hdecode⟩) h
  | error reason => exact ⟨reason, rfl⟩

theorem needFec_of_invalid {sch : SchemeId} (h : 4 < sch.toNat) : needFec sch = .error .badenum := by
  have hnone : FecScheme.ofId sch = none := by
    unfold FecScheme.ofId
    split <;> simp_all
  rw [needFec, hnone, present_none]

theorem needCrc_of_invalid {sch : SchemeId} (h : sch.toNat < 2 ∨ 4 < sch.toNat) :
    needCrc sch = .error .badenum := by
  have hnone : CrcScheme.ofId sch = none := by
    unfold CrcScheme.ofId
    split <;> simp_all
  rw [needCrc, hnone, present_none]

theorem needMod_of_invalid {sch : SchemeId} (h : 16 < sch.toNat) : needMod sch = .error .badenum := by
  have hnone : ModScheme.ofId sch = none := by
    unfold ModScheme.ofId
    split <;> simp_all
  rw [needMod, hnone, present_none]

/-- A command raises the cause of its first check when that check fails in READY. -/
theorem command_first_check {α : Type} {i : Instr} {s : State} {cause : FatalCause} {check : Checked α}
    (k : α → Checked State) (hready : s.phase = .ready) (hcheck : check = .error cause) :
    command i s (check >>= k) = .next (fatalState s cause i.word) :=
  command_ready_error hready (by rw [hcheck]; rfl)

/-- Settles O5: no row means that the decoder rejects the word; the identifier is the first check of its commands. -/
theorem illegalWordsRaiseBadenum : Obligations.IllegalWordsRaiseBadenum := by
  constructor
  · intro s w payload rest hreset hphase hwords hlen hrow
    obtain ⟨reason, hreason⟩ := exists_error_of_not_matchesTable payload hrow
    have hfetch : fetch s.stream = .command w payload rest := by
      rw [State.stream, hwords, fetch_cons_append rest hlen]
    exact step_of_illegal hreset hphase hfetch hreason
  · intro s ra rb sch x hready
    refine ⟨fun h => ?_, fun h => ?_, fun h => ?_⟩
    · have hcheck := needFec_of_invalid h
      exact ⟨command_first_check _ hready hcheck, command_first_check _ hready hcheck⟩
    · have hcheck := needCrc_of_invalid h
      exact ⟨command_first_check _ hready hcheck, command_first_check _ hready hcheck⟩
    · have hcheck := needMod_of_invalid h
      exact ⟨command_first_check _ hready hcheck, command_first_check _ hready hcheck,
        command_first_check _ hready hcheck⟩

end Sys2Proof.Machine
end

section
/-! The laws of the pure functions on bit sequences (`40` R100 to R102, R119, R121): integers, the long division as
loop and as remainder of polynomials, re-chunking. The statements about the bit-block commands rest on them. -/

namespace Sys2Proof.Machine

/-! ### Integers (R100, R101) -/

/-- The fold of `toInteger` from a start value: the value comes to stand before the bits. -/
theorem foldl_toInteger (x : Bits) (a : Nat) :
    x.foldl (fun a b => 2 * a + b.toNat) a = a * 2 ^ x.length + toInteger x := by
  induction x generalizing a with
  | nil => simp [toInteger]
  | cons b x ih =>
    simp only [toInteger, List.foldl_cons, List.length_cons, ih (2 * a + b.toNat), ih (2 * 0 + b.toNat)]
    ring

theorem toInteger_nil : toInteger [] = 0 := rfl

theorem toInteger_cons (b : Bool) (x : Bits) : toInteger (b :: x) = b.toNat * 2 ^ x.length + toInteger x := by
  rw [toInteger, List.foldl_cons, foldl_toInteger, Nat.mul_zero, Nat.zero_add]

theorem toInteger_eq_sum (x : Bits) :
    toInteger x = ∑ i ∈ Finset.range x.length, (x.getD i false).toNat * 2 ^ (x.length - 1 - i) := by
  induction x with
  | nil => rfl
  | cons b x ih =>
    rw [toInteger_cons, ih, List.length_cons, Finset.sum_range_succ', Nat.add_comm]
    simp [Nat.sub_sub, Nat.add_comm 1]

theorem toInteger_lt (x : Bits) : toInteger x < 2 ^ x.length := by
  induction x with
  | nil => simp [toInteger_nil]
  | cons b x ih =>
    rw [toInteger_cons, List.length_cons, Nat.pow_succ]
    cases b <;> simp <;> omega

theorem fromInteger_eq_map (len v : Nat) :
    fromInteger len v = (List.range len).map fun i => v.testBit (len - 1 - i) := by
  induction len with
  | zero => rfl
  | succ k ih =>
    rw [fromInteger, ih, List.range_succ_eq_map, List.map_cons, List.map_map]
    simp [Function.comp_def, Nat.sub_sub, Nat.add_comm 1]

theorem fromInteger_mod (len v : Nat) : fromInteger len (v % 2 ^ len) = fromInteger len v := by
  rw [fromInteger_eq_map, fromInteger_eq_map]
  refine List.map_congr_left fun i hi => ?_
  have hlow : len - 1 - i < len := by have := List.mem_range.mp hi; omega
  simp [Nat.testBit_mod_two_pow, hlow]

theorem toInteger_fromInteger (len v : Nat) : toInteger (fromInteger len v) = v % 2 ^ len := by
  induction len with
  | zero => simp [fromInteger, toInteger_nil, Nat.mod_one]
  | succ k ih =>
    rw [fromInteger, toInteger_cons, ih, fromInteger_length, Nat.mod_pow_succ, Nat.toNat_testBit]
    ring

theorem fromInteger_toInteger (x : Bits) : fromInteger x.length (toInteger x) = x := by
  induction x with
  | nil => rfl
  | cons b x ih =>
    have hlt := toInteger_lt x
    have hhigh : (toInteger (b :: x)).testBit x.length = b := by
      rw [toInteger_cons, Nat.mul_comm, Nat.testBit_two_pow_mul_add _ hlt]
      cases b <;> simp
    have hlow : toInteger (b :: x) % 2 ^ x.length = toInteger x := by
      rw [toInteger_cons, Nat.mul_add_mod_of_lt hlt]
    rw [List.length_cons, fromInteger, hhigh, ← fromInteger_mod, hlow, ih]

/-- Settles O46: every law by induction on the bits, most significant first. -/
theorem integersHaveBitZeroMostSignificant : Obligations.IntegersHaveBitZeroMostSignificant := by
  refine ⟨fun x => ⟨toInteger_eq_sum x, toInteger_lt x, fromInteger_toInteger x⟩, fun len v => ?_⟩
  refine ⟨fromInteger_eq_map len v, (fromInteger_mod len v).symm, fun hv => ?_⟩
  rw [toInteger_fromInteger, Nat.mod_eq_of_lt hv]

/-! ### The long division and its loop (R102) -/

theorem xorPrefix_nil_right (w : Bits) : xorPrefix w [] = w := by
  cases w <;> rfl

theorem xorPrefix_nil_left (g : Bits) : xorPrefix [] g = [] := by
  cases g <;> rfl

/-- The inner loop of R102 on a divisor with a bit before the others: it XORs that bit, then the others one place
further on. -/
theorem literalXorAt_cons (c : Bool) (g w : Bits) (i : Nat) :
    literalXorAt (c :: g) w i = literalXorAt g (w.set i (w.getD i false ^^ c)) (i + 1) := by
  simp [literalXorAt, List.range_succ_eq_map, List.foldl_map, Nat.add_assoc, Nat.add_comm 1]

/-- The inner loop of R102 changes the bits from `i` on only, and those as `xorPrefix` does. -/
theorem literalXorAt_eq (g w : Bits) (i : Nat) : literalXorAt g w i = w.take i ++ xorPrefix (w.drop i) g := by
  induction g generalizing w i with
  | nil => simp [literalXorAt, xorPrefix_nil_right]
  | cons c g ih =>
    rw [literalXorAt_cons, ih]
    by_cases hi : i < w.length
    · rw [List.drop_eq_getElem_cons hi, xorPrefix]
      simp [List.take_add_one, List.take_set_of_le, List.drop_set, hi]
    · rw [Nat.not_lt] at hi
      simp [List.set_eq_of_length_le, List.take_of_length_le, List.drop_eq_nil_of_le, hi, Nat.le_succ_of_le,
        xorPrefix_nil_left]

theorem tail_xorPrefix (w g : Bits) : (xorPrefix w g).tail = xorPrefix w.tail g.tail := by
  cases g with
  | nil => simp [xorPrefix_nil_right]
  | cons c g => cases w <;> simp [xorPrefix, xorPrefix_nil_left]

/-- The bits past place `i` that the inner loop of R102 leaves. -/
theorem drop_literalXorAt (g w : Bits) (i : Nat) :
    (literalXorAt g w i).drop (i + 1) = xorPrefix (w.drop (i + 1)) g.tail := by
  have hfrom : (literalXorAt g w i).drop i = xorPrefix (w.drop i) g := by
    rw [literalXorAt_eq]
    rcases Nat.le_total i w.length with hi | hi
    · exact List.drop_left' (List.length_take_of_le hi)
    · simp [List.drop_eq_nil_of_le, hi, xorPrefix_nil_left]
  rw [← List.tail_drop, hfrom, tail_xorPrefix, List.tail_drop]

/-- One pass of the outer loop of R102. -/
def literalStep (g w : Bits) (i : Nat) : Bits := if w.getD i false then literalXorAt g w i else w

theorem literalRem_eq (d g : Bits) :
    literalRem d g
      = ((List.range (d.length + 1 - g.length)).foldl (literalStep g) d).drop (d.length - (g.length - 1)) := rfl

/-- The bits that a pass of the outer loop leaves to be visited are those of one step of the machine's division. -/
theorem drop_literalStep (g w : Bits) (i : Nat) : (literalStep g w i).drop (i + 1) = gf2Steps g 1 (w.drop i) := by
  by_cases hi : i < w.length
  · rw [literalStep, List.getD_eq_getElem _ _ hi, List.drop_eq_getElem_cons hi, gf2Steps, gf2Steps,
      ← drop_literalXorAt]
    split <;> rfl
  · rw [Nat.not_lt] at hi
    simp [literalStep, List.drop_eq_nil_of_le, Nat.le_succ_of_le, gf2Steps, hi]

theorem gf2Steps_succ (g w : Bits) (k : Nat) : gf2Steps g (k + 1) w = gf2Steps g 1 (gf2Steps g k w) := by
  induction k generalizing w with
  | zero => rfl
  | succ k ih =>
    cases w with
    | nil => rfl
    | cons b w => exact ih _

/-- After `k` passes the loop of R102 and the machine agree on the bits that are not visited yet. -/
theorem drop_literalSteps (g d : Bits) (k : Nat) :
    ((List.range k).foldl (literalStep g) d).drop k = gf2Steps g k d := by
  induction k with
  | zero => rfl
  | succ k ih =>
    rw [List.range_succ, List.foldl_append, List.foldl_cons, List.foldl_nil, drop_literalStep, ih, ← gf2Steps_succ]

theorem gf2Rem_eq_literalRem {d g : Bits} (hg : 1 ≤ g.length) : gf2Rem d g = literalRem d g := by
  have hsteps : d.length - (g.length - 1) = d.length + 1 - g.length := by omega
  rw [literalRem_eq, hsteps, drop_literalSteps, gf2Rem]

/-- Settles O47: after `k` passes the loop holds, past the visited bits, what `k` steps of the machine leave. -/
theorem remainderIsTheLongDivisionLoop : Obligations.RemainderIsTheLongDivisionLoop := by
  intro d g hg hd
  refine ⟨gf2Rem_eq_literalRem hg, ?_⟩
  rw [gf2Rem_length]
  omega

/-! ### The remainder of polynomials over GF(2) (R102) -/

section Remainder

open Polynomial

/-- A bit sequence as a polynomial over GF(2), bit 0 the coefficient of the highest degree. -/
noncomputable def polyOf (x : Bits) : (ZMod 2)[X] :=
  ∑ i ∈ Finset.range x.length, if x.getD i false then X ^ (x.length - 1 - i) else 0

theorem polyOf_nil : polyOf [] = 0 := rfl

theorem polyOf_cons (b : Bool) (x : Bits) : polyOf (b :: x) = (if b then X ^ x.length else 0) + polyOf x := by
  rw [polyOf, List.length_cons, Finset.sum_range_succ', add_comm, polyOf]
  simp [Nat.sub_sub, Nat.add_comm 1]

theorem degree_polyOf_lt (x : Bits) : (polyOf x).degree < x.length := by
  induction x with
  | nil => simp [polyOf_nil]
  | cons b x ih =>
    rw [polyOf_cons, List.length_cons]
    have hx : (polyOf x).degree < ((x.length + 1 : ℕ) : WithBot ℕ) :=
      ih.trans (by exact_mod_cast Nat.lt_succ_self _)
    cases b with
    | false => simpa using hx
    | true =>
      refine (degree_add_le _ _).trans_lt (max_lt ?_ hx)
      rw [if_pos rfl, degree_X_pow]
      exact_mod_cast Nat.lt_succ_self _

theorem polyOf_monic {g : Bits} (hg : g.head? = some true) :
    (polyOf g).Monic ∧ (polyOf g).degree = (g.length - 1 : ℕ) := by
  obtain ⟨gs, rfl⟩ := List.head?_eq_some_iff.mp hg
  rw [polyOf_cons, if_pos rfl, List.length_cons, Nat.add_sub_cancel]
  refine ⟨monic_X_pow_add (degree_polyOf_lt gs), ?_⟩
  rw [degree_add_eq_left_of_degree_lt (by simp [degree_polyOf_lt]), degree_X_pow]

/-- XOR-ing into the leading bits adds a multiple by a power of `X`. -/
theorem polyOf_xorPrefix {w gs : Bits} (h : gs.length ≤ w.length) :
    polyOf (xorPrefix w gs) = polyOf w + X ^ (w.length - gs.length) * polyOf gs := by
  induction w generalizing gs with
  | nil =>
    obtain rfl : gs = [] := List.eq_nil_of_length_eq_zero (Nat.le_zero.mp h)
    simp [xorPrefix, polyOf_nil]
  | cons b w ih =>
    cases gs with
    | nil => simp [xorPrefix, polyOf_nil]
    | cons c gs =>
      rw [List.length_cons, List.length_cons, Nat.add_le_add_iff_right] at h
      have hpow : (X : (ZMod 2)[X]) ^ (w.length - gs.length) * X ^ gs.length = X ^ w.length := by
        rw [← pow_add, Nat.sub_add_cancel h]
      have hxor : (if (b ^^ c) then X ^ w.length else 0 : (ZMod 2)[X])
          = (if b then X ^ w.length else 0) + X ^ (w.length - gs.length) * (if c then X ^ gs.length else 0) := by
        cases b <;> cases c <;> simp [hpow, CharTwo.add_self_eq_zero]
      rw [xorPrefix, polyOf_cons, xorPrefix_length, ih h, hxor, polyOf_cons, polyOf_cons, List.length_cons,
        List.length_cons, Nat.add_sub_add_right]
      ring

/-- A step that visits a bit 1 subtracts a multiple of the divisor. -/
theorem polyOf_sub_xorPrefix {w gs : Bits} (h : gs.length ≤ w.length) :
    polyOf (true :: w) - polyOf (xorPrefix w gs) = polyOf (true :: gs) * X ^ (w.length - gs.length) := by
  have hpow : (X : (ZMod 2)[X]) ^ gs.length * X ^ (w.length - gs.length) = X ^ w.length := by
    rw [← pow_add, Nat.add_sub_cancel' h]
  rw [polyOf_xorPrefix h, polyOf_cons, polyOf_cons, if_pos rfl, if_pos rfl, add_mul, hpow, CharTwo.sub_eq_add]
  have hw := CharTwo.add_self_eq_zero (polyOf w)
  linear_combination hw

/-- All steps together subtract a multiple of the divisor. -/
theorem polyOf_dvd_sub_gf2Steps {g : Bits} (hg : g.head? = some true) {k : Nat} {w : Bits}
    (h : k + (g.length - 1) ≤ w.length) : polyOf g ∣ polyOf w - polyOf (gf2Steps g k w) := by
  induction k generalizing w with
  | zero => simp [gf2Steps]
  | succ k ih =>
    cases w with
    | nil => simp [gf2Steps]
    | cons b w =>
      rw [List.length_cons] at h
      rw [gf2Steps]
      cases b with
      | false => simpa [polyOf_cons] using ih (w := w) (by omega)
      | true =>
        obtain ⟨gs, rfl⟩ := List.head?_eq_some_iff.mp hg
        rw [List.length_cons, Nat.add_sub_cancel] at h
        have hstep : polyOf (true :: gs) ∣ polyOf (true :: w) - polyOf (xorPrefix w gs) :=
          Dvd.intro _ (polyOf_sub_xorPrefix (by omega)).symm
        have hrest : polyOf (true :: gs) ∣ polyOf (xorPrefix w gs)
            - polyOf (gf2Steps (true :: gs) k (xorPrefix w gs)) := ih (by simp; omega)
        simpa using hstep.add hrest

/-- Settles O48: the result differs from the dividend by a multiple of the divisor and has a smaller degree. -/
theorem remainderIsThePolynomialRemainder : Obligations.RemainderIsThePolynomialRemainder := by
  intro d g hg hd
  obtain ⟨hmonic, hdegree⟩ := polyOf_monic hg
  have hpos : 0 < g.length := by
    obtain ⟨gs, rfl⟩ := List.head?_eq_some_iff.mp hg
    exact Nat.succ_pos _
  have hlen : (gf2Rem d g).length = g.length - 1 := by
    rw [gf2Rem_length]
    omega
  obtain ⟨q, hq⟩ : polyOf g ∣ polyOf d - polyOf (gf2Rem d g) := polyOf_dvd_sub_gf2Steps hg (by omega)
  have hlt : (polyOf (gf2Rem d g)).degree < (polyOf g).degree := by
    rw [hdegree, ← hlen]
    exact degree_polyOf_lt _
  have hdivision : polyOf (gf2Rem d g) + polyOf g * q = polyOf d := by rw [← hq, add_sub_cancel]
  exact (div_modByMonic_unique q _ hmonic ⟨hdivision, hlt⟩).2.symm

end Remainder

/-! ### Re-chunking (R119, R121) -/

theorem takePad_eq_map (n : Nat) (s : Bits) : takePad n s = (List.range n).map fun i => s.getD i false := by
  refine List.ext_getElem (by simp) fun i hi _ => ?_
  rw [takePad_length] at hi
  by_cases hs : i < s.length <;> simp [takePad, zeros, List.getElem_append, hi, hs]

theorem takePad_of_le {n : Nat} {s : Bits} (h : s.length ≤ n) : takePad n s = s ++ zeros (n - s.length) := by
  rw [takePad, List.take_of_length_le h]

theorem takePad_nil (n : Nat) : takePad n [] = zeros n := takePad_of_le (Nat.zero_le n)

theorem takePad_add (m n : Nat) (s : Bits) : takePad (m + n) s = takePad m s ++ takePad n (s.drop m) := by
  simp [takePad_eq_map, List.range_add, Function.comp_def]

theorem slices_eq_map (target k : Nat) (s : Bits) :
    slices target k s
      = (List.range k).map fun j => (List.range target).map fun t => s.getD (j * target + t) false := by
  induction k generalizing s with
  | zero => rfl
  | succ k ih =>
    rw [slices, takePad_eq_map, ih, List.range_succ_eq_map, List.map_cons, List.map_map]
    simp [Function.comp_def, Nat.succ_mul, Nat.add_comm, Nat.add_left_comm]

theorem flatten_slices (target k : Nat) (s : Bits) : (slices target k s).flatten = takePad (k * target) s := by
  induction k generalizing s with
  | zero => simp [slices, takePad, zeros]
  | succ k ih => rw [slices, List.flatten_cons, ih, ← takePad_add, Nat.succ_mul, Nat.add_comm]

/-- The machine's re-chunking is the loop of R119 for every target, 0 included. -/
theorem rechunk_eq_literalRechunk (blocks : List Bits) (target : Nat) :
    rechunk blocks target = literalRechunk blocks target := by
  rw [rechunk, slices_eq_map, literalRechunk, ceilDiv]
  refine List.map_congr_left fun j _ => List.map_congr_left fun t _ => ?_
  split
  · rfl
  · next hpast => exact List.getD_eq_default _ _ (Nat.not_lt.mp hpast)

/-- `ceilDiv a b` is the least number of `b`s that reach `a` (R11). -/
theorem ceilDiv_le_iff {a b k : Nat} (hb : 1 ≤ b) : ceilDiv a b ≤ k ↔ a ≤ k * b := by
  rw [ceilDiv, ← Nat.lt_succ_iff, Nat.div_lt_iff_lt_mul hb, Nat.succ_mul]
  omega

theorem le_ceilDiv_mul (a : Nat) {b : Nat} (hb : 1 ≤ b) : a ≤ ceilDiv a b * b := (ceilDiv_le_iff hb).mp le_rfl

theorem ceilDiv_mul_lt (a : Nat) {b : Nat} (hb : 1 ≤ b) : ceilDiv a b * b < a + b := by
  have := Nat.div_mul_le_self (a + b - 1) b
  rw [ceilDiv]
  omega

/-- The concatenation of the re-chunked blocks is the stream, padded to the next multiple of the target. -/
theorem flatten_rechunk (blocks : List Bits) {target : Nat} (ht : 1 ≤ target) :
    (rechunk blocks target).flatten = blocks.flatten
      ++ zeros (ceilDiv blocks.flatten.length target * target - blocks.flatten.length) := by
  rw [rechunk, flatten_slices, takePad_of_le (le_ceilDiv_mul _ ht)]

theorem takePad_append_zeros (n m : Nat) (s : Bits) : takePad n (s ++ zeros m) = takePad n s := by
  rw [takePad_eq_map, takePad_eq_map]
  refine List.map_congr_left fun i _ => ?_
  rcases Nat.lt_or_ge i s.length with hi | hi
  · exact List.getD_append _ _ _ _ hi
  · rw [List.getD_append_right _ _ _ _ hi, List.getD_eq_default s _ hi]
    rcases Nat.lt_or_ge (i - s.length) m with hm | hm <;> simp [zeros, hm]

/-- Re-chunking twice pads the stream to a multiple of the second target that is at least the least one. -/
theorem flatten_rechunk_rechunk (blocks : List Bits) {s1 s2 : Nat} (h1 : 1 ≤ s1) (h2 : 1 ≤ s2) :
    ∃ pad, (rechunk (rechunk blocks s1) s2).flatten = (rechunk blocks s2).flatten ++ zeros pad := by
  have hfirst := flatten_rechunk blocks h1
  have hlonger : blocks.flatten.length ≤ (rechunk blocks s1).flatten.length := by simp [hfirst]
  have hend := le_ceilDiv_mul blocks.flatten.length h2
  have hleast : ceilDiv blocks.flatten.length s2 ≤ ceilDiv (rechunk blocks s1).flatten.length s2 :=
    (ceilDiv_le_iff h2).mpr (hlonger.trans (le_ceilDiv_mul _ h2))
  obtain ⟨pad, hpad⟩ := Nat.exists_eq_add_of_le (Nat.mul_le_mul_right s2 hleast)
  refine ⟨pad, ?_⟩
  calc (rechunk (rechunk blocks s1) s2).flatten
      = takePad (ceilDiv (rechunk blocks s1).flatten.length s2 * s2) (rechunk blocks s1).flatten :=
        flatten_slices _ _ _
    _ = takePad (ceilDiv blocks.flatten.length s2 * s2 + pad) blocks.flatten := by
        rw [hpad, hfirst, takePad_append_zeros]
    _ = takePad (ceilDiv blocks.flatten.length s2 * s2) blocks.flatten ++ zeros pad := by
        rw [takePad_add, List.drop_eq_nil_of_le hend, takePad_nil]
    _ = (rechunk blocks s2).flatten ++ zeros pad := by rw [rechunk, flatten_slices]

/-- Settles O54: the padded length is the least multiple of the target that holds the stream. -/
theorem rechunkingIsLosslessAndAssociative : Obligations.RechunkingIsLosslessAndAssociative := by
  refine ⟨fun blocks target ht => ⟨rechunk_eq_literalRechunk blocks target, fun y => length_of_mem_rechunk, ?_⟩,
    fun blocks s1 s2 => flatten_rechunk_rechunk blocks⟩
  refine ⟨_, ?_, flatten_rechunk blocks ht⟩
  have := ceilDiv_mul_lt blocks.flatten.length ht
  omega

end Sys2Proof.Machine
end

section
/-! The sixteen bit-block commands (`40` R103 to R118), assembled from rules said once: what a check before the rest
of a command answers, what the state updates change and leave, and what the bit functions give at each index. -/

namespace Sys2Proof.Machine

/-! ### Command words (`30` R61, R78) -/

theorem encodedAs_word (i : Instr) : EncodedAs i i.opcode.byte.toNat i.fields := packWord_toNat _ _

/-! ### What is left of a command in READY (`60` R225) -/

/-- In READY the command answers what `body`, its checks and writes still to come, answers. -/
structure Runs (i : Instr) (s : State) (body : Checked State) : Prop where
  ready : s.phase = .ready
  exec_eq : exec i s = command i s body

section Checks

variable {i : Instr} {s t : State} {α : Type}

/-- An operand that is there is handed to the rest. -/
theorem Runs.yields {check : Checked α} {rest : α → Checked State} {a : α} (h : Runs i s (check >>= rest))
    (hcheck : check = .ok a) : Runs i s (rest a) := by
  rwa [hcheck] at h

/-- A condition that holds leaves the rest. -/
theorem Runs.passes {check : Checked Unit} {rest : Unit → Checked State} (h : Runs i s (check >>= rest))
    (hcheck : check = .ok ()) : Runs i s (rest ()) :=
  h.yields hcheck

/-- A check that fails ends the command. -/
theorem Runs.raises {check : Checked α} {rest : α → Checked State} {cause : FatalCause}
    (h : Runs i s (check >>= rest)) (hcheck : check = .error cause) : Raises i s cause :=
  h.exec_eq.trans (command_ready_error h.ready (by rw [hcheck]; rfl))

theorem Runs.next (h : Runs i s (.ok t)) : exec i s = .next t := h.exec_eq.trans (command_ready_ok h.ready rfl)

/-- Two conditions for one cause, either of which may fail. -/
theorem Runs.raises_either {c d : Bool} {cause : FatalCause} {rest : Unit → Checked State}
    (h : Runs i s (require c cause >>= fun _ => require d cause >>= rest)) (hfail : c = false ∨ d = false) :
    Raises i s cause := by
  cases hc : c with
  | false => exact h.raises (require_eq_error_iff.mpr ⟨hc, rfl⟩)
  | true =>
    have hd : d = false := by simpa [hc] using hfail
    exact (h.passes (require_eq_ok_iff.mpr hc)).raises (require_eq_error_iff.mpr ⟨hd, rfl⟩)

/-- The part that every command with one block operand has in common: NULLREF in UNINIT and for an unallocated
register, and then `hrest` about the block. -/
theorem oneBlock_command {ra : RegIx} {rest : Bits → Checked State} {P : Bits → Prop}
    (hexec : exec i s = command i s (needBlk s ra.toNat >>= rest))
    (hrest : ∀ a, s.blk ra.toNat = some a → Runs i s (rest a) → P a) :
    (s.phase = .uninit → Raises i s .nullref) ∧
    (s.phase = .ready → (s.blk ra.toNat = none → Raises i s .nullref) ∧
      ∀ a, s.blk ra.toNat = some a → P a) := by
  refine ⟨fun huninit => hexec.trans (command_uninit huninit), fun hready => ?_⟩
  have hrun : Runs i s _ := ⟨hready, hexec⟩
  rw [needBlk_reg] at hrun
  exact ⟨fun hnone => hrun.raises (present_eq_error_iff.mpr ⟨hnone, rfl⟩),
    fun a ha => hrest a ha (hrun.yields (present_eq_ok_iff.mpr ha))⟩

/-- The same for two block operands, the first checked first. -/
theorem twoBlocks_command {ra rb : RegIx} {rest : Bits → Bits → Checked State} {P : Bits → Bits → Prop}
    (hexec : exec i s = command i s (needBlk s ra.toNat >>= fun a => needBlk s rb.toNat >>= rest a))
    (hrest : ∀ a b, Runs i s (rest a b) → P a b) :
    (s.phase = .uninit → Raises i s .nullref) ∧
    (s.phase = .ready → (s.blk ra.toNat = none ∨ s.blk rb.toNat = none → Raises i s .nullref) ∧
      ∀ a b, s.blk ra.toNat = some a → s.blk rb.toNat = some b → P a b) := by
  refine ⟨fun huninit => hexec.trans (command_uninit huninit), fun hready => ?_⟩
  have hrun : Runs i s _ := ⟨hready, hexec⟩
  simp only [needBlk_reg] at hrun
  have hsecond : ∀ a, s.blk ra.toNat = some a → Runs i s (present (s.blk rb.toNat) .nullref >>= rest a) :=
    fun a ha => hrun.yields (present_eq_ok_iff.mpr ha)
  refine ⟨fun hnone => ?_, fun a b ha hb => hrest a b ((hsecond a ha).yields (present_eq_ok_iff.mpr hb))⟩
  cases ha : s.blk ra.toNat with
  | none => exact hrun.raises (present_eq_error_iff.mpr ⟨ha, rfl⟩)
  | some a =>
    have hb : s.blk rb.toNat = none := by simpa [ha] using hnone
    exact (hsecond a ha).raises (present_eq_error_iff.mpr ⟨hb, rfl⟩)

end Checks

/-! ### The effect of the state updates -/

section Effects

variable {i : Instr} {s : State}

theorem completes_of_putBlk {r : RegIx} {x : Bits} (h : exec i s = .next (s.putBlk r.toNat x)) :
    Completes i s (withBlk s r.toNat x) s.pt s.acc s.nodata :=
  ⟨_, h, sameControl_putBlk _ _ _, blk_putBlk s r.isLt x, fun _ => rfl, rfl, rfl⟩

theorem completes_of_freeBlk {r : RegIx} (h : exec i s = .next (s.freeBlk r.toNat)) :
    Completes i s (fun n => if n = r.toNat then none else s.blk n) s.pt s.acc s.nodata :=
  ⟨_, h, sameControl_freeBlk _ _, blk_freeBlk s r.isLt, fun _ => rfl, rfl, rfl⟩

theorem completes_of_putAcc {v : Word} (h : exec i s = .next (s.putAcc v)) :
    Completes i s s.blk s.pt v s.nodata :=
  ⟨_, h, sameControl_putAcc _ _, fun _ => rfl, fun _ => rfl, rfl, rfl⟩

theorem completes_of_putBlks {base : Nat} {xs : List Bits} {out : Nat} (hfits : base + xs.length ≤ 64)
    (h : exec i s = .next ((s.putBlks base xs).arrayDone out)) :
    Completes i s (withBlks s base xs) s.pt (BitVec.ofNat 64 out) (out == 0) :=
  ⟨_, h, (sameControl_putBlks _ _ _).trans (sameControl_arrayDone _ _), blk_putBlks xs s base hfits,
    putBlks_pt s xs base, rfl, rfl⟩

end Effects

/-! ### The bit functions index by index -/

theorem xorBits_eq_map {a b : Bits} (h : a.length = b.length) :
    xorBits a b = (List.range a.length).map fun i => a.getD i false ^^ b.getD i false := by
  refine List.ext_getElem (by simp [h]) fun i hi _ => ?_
  rw [xorBits_length, ← h, Nat.min_self] at hi
  simp [xorBits, hi, h ▸ hi]

theorem fromString_eq_map (len : Nat) (chars : List Byte) :
    fromString len chars = (List.range len).map fun i => decide (chars[i]? = some 0x31#8) := by
  rw [fromString, takePad_eq_map]
  refine List.map_congr_left fun i _ => ?_
  cases h : chars[i]? <;> simp [h, charOne, beq_eq_decide]

theorem copyRange_eq_map {dst src : Bits} {doff soff n : Nat} (hd : doff + n ≤ dst.length)
    (hs : soff + n ≤ src.length) :
    copyRange dst doff src soff n = (List.range dst.length).map fun t =>
      if doff ≤ t ∧ t < doff + n then src.getD (soff + (t - doff)) false else dst.getD t false := by
  refine List.ext_getElem (by simp [copyRange_length hd hs]) fun t ht _ => ?_
  rw [copyRange_length hd hs] at ht
  have hfront : (dst.take doff).length = doff := List.length_take_of_le (by omega)
  have hcopied : ((src.drop soff).take n).length = n := List.length_take_of_le (by rw [List.length_drop]; omega)
  simp only [copyRange, List.append_assoc, List.getElem_append, hfront, hcopied, List.getElem_map,
    List.getElem_range]
  rcases Nat.lt_or_ge t doff with hbefore | hfrom
  · simp [hbefore, ht, Nat.not_le.mpr hbefore]
  · rcases Nat.lt_or_ge t (doff + n) with hin | hpast
    · have hlt : t - doff < n := by omega
      have hsrc : soff + (t - doff) < src.length := by omega
      simp [hfrom, hin, hlt, hsrc, Nat.not_lt.mpr hfrom]
    · have hge : ¬ t - doff < n := by omega
      have hrest : doff + n + (t - doff - n) = t := by omega
      simp [Nat.not_lt.mpr hfrom, Nat.not_lt.mpr hpast, hge, hrest, ht]

theorem toNat_xor_eq_add_mod (u v : Bool) : (u ^^ v).toNat = (u.toNat + v.toNat) % 2 := by
  cases u <;> cases v <;> rfl

/-- The fold of `xorAt` from a start value. -/
theorem toNat_foldl_xor (x : Bits) (ps : List Nat) (u : Bool) :
    (ps.foldl (fun acc p => acc ^^ bitAt x p) u).toNat
      = (u.toNat + (ps.map fun p => (x.getD p false).toNat).sum) % 2 := by
  induction ps generalizing u with
  | nil => cases u <;> rfl
  | cons p ps ih =>
    rw [List.foldl_cons, ih, toNat_xor_eq_add_mod, Nat.mod_add_mod, Nat.add_assoc, List.map_cons, List.sum_cons, bitAt]

/-- The XOR of listed bits is the parity of their sum, so a position that is listed twice cancels (R116). -/
theorem toNat_xorAt (x : Bits) (ps : List Nat) :
    (xorAt x ps).toNat = (ps.map fun p => (x.getD p false).toNat).sum % 2 := by
  rw [xorAt, toNat_foldl_xor, Bool.toNat_false, Nat.zero_add]

theorem lt_length_of_getElem? {a : Bits} {n : Nat} {v : Bool} (h : a[n]? = some v) : n < a.length :=
  (List.getElem?_eq_some_iff.mp h).1

theorem bitAt_of_getElem? {a : Bits} {n : Nat} {v : Bool} (h : a[n]? = some v) : bitAt a n = v := by
  simp [bitAt, List.getD, h]

theorem bitWord_eq_ofNat (v : Bool) : bitWord v = BitVec.ofNat 64 v.toNat := by
  cases v <;> rfl

/-! ### Life of a register (R103, R104) -/

/-- Settles O21: a 12-bit length passes the ALLOC check. -/
theorem bcreateCreatesZeroBits : Obligations.BcreateCreatesZeroBits := by
  intro ra n s
  refine ⟨encodedAs_word (.bcreate ra n), command_uninit, fun hready => ?_⟩
  have hrun : Runs (.bcreate ra n) s _ := ⟨hready, rfl⟩
  have hn : n.toNat ≤ MAXLEN := Nat.lt_succ_iff.mp n.isLt
  exact completes_of_putBlk (hrun.passes (require_eq_ok_iff.mpr (decide_eq_true hn))).next

/-- Settles O22: by the rule for one block; what is left of the command is the release. -/
theorem bdestroyReleasesTheRegister : Obligations.BdestroyReleasesTheRegister := by
  intro ra s
  exact ⟨encodedAs_word (.bdestroy ra), oneBlock_command rfl fun a _ hrun => completes_of_freeBlk hrun.next⟩

/-! ### One bit (R105 to R110) -/

/-- Settles O23: by the rule for one block and the index check; the bit is read and nothing written but `ACC`. -/
theorem bgetReadsOneBit : Obligations.BgetReadsOneBit := by
  intro ra x s
  refine ⟨encodedAs_word (.bget ra x), oneBlock_command rfl fun a _ hrun => ⟨fun hx => ?_, fun v hv => ?_⟩⟩
  · exact hrun.raises (needIdx_eq_error_iff.mpr ⟨hx, rfl⟩)
  · rw [← bitAt_of_getElem? hv]
    exact completes_of_putAcc (hrun.passes (needIdx_eq_ok_iff.mpr (lt_length_of_getElem? hv))).next

/-- Settles O24: by the rule for one block and the index check. -/
theorem bsetWritesOneBit : Obligations.BsetWritesOneBit := by
  intro ra x v s
  refine ⟨encodedAs_word (.bset ra x v), oneBlock_command rfl fun a _ hrun => ⟨fun hx => ?_, fun hx => ?_⟩⟩
  · exact hrun.raises (needIdx_eq_error_iff.mpr ⟨hx, rfl⟩)
  · exact completes_of_putBlk (hrun.passes (needIdx_eq_ok_iff.mpr hx)).next

/-- Settles O25: by the rule for one block and the index check; the old bit is the one the statement names. -/
theorem bxoriXorsOneBit : Obligations.BxoriXorsOneBit := by
  intro ra x v s
  refine ⟨encodedAs_word (.bxori ra x v),
    oneBlock_command rfl fun a _ hrun => ⟨fun hx => ?_, fun old hold => ?_⟩⟩
  · exact hrun.raises (needIdx_eq_error_iff.mpr ⟨hx, rfl⟩)
  · rw [← bitAt_of_getElem? hold]
    exact completes_of_putBlk (hrun.passes (needIdx_eq_ok_iff.mpr (lt_length_of_getElem? hold))).next

/-- Settles O26: by the rule for two blocks; both indices are checked before the one write. -/
theorem bcpbitCopiesOneBit : Obligations.BcpbitCopiesOneBit := by
  intro ra rb x y s
  refine ⟨encodedAs_word (.bcpbit ra x rb y),
    twoBlocks_command rfl fun a b hrun => ⟨fun hxy => ?_, fun v hx hv => ?_⟩⟩
  · exact hrun.raises_either (by simpa using hxy)
  · rw [← bitAt_of_getElem? hv]
    have hy := lt_length_of_getElem? hv
    exact completes_of_putBlk ((hrun.passes (needIdx_eq_ok_iff.mpr hx)).passes (needIdx_eq_ok_iff.mpr hy)).next

/-- Settles O27: by the rule for one block and the index check; inverting is XOR with 1. -/
theorem bflipInvertsOneBit : Obligations.BflipInvertsOneBit := by
  intro ra x s
  refine ⟨encodedAs_word (.bflip ra x), oneBlock_command rfl fun a _ hrun => ⟨fun hx => ?_, fun old hold => ?_⟩⟩
  · exact hrun.raises (needIdx_eq_error_iff.mpr ⟨hx, rfl⟩)
  · rw [← bitAt_of_getElem? hold, Bool.xor_true]
    exact completes_of_putBlk (hrun.passes (needIdx_eq_ok_iff.mpr (lt_length_of_getElem? hold))).next

/-- Settles O28: by the rule for two blocks and both index checks. -/
theorem bcmpComparesTwoBits : Obligations.BcmpComparesTwoBits := by
  intro ra rb x y s
  refine ⟨encodedAs_word (.bcmp ra x rb y),
    twoBlocks_command rfl fun a b hrun => ⟨fun hxy => ?_, fun u v hu hv => ?_⟩⟩
  · exact hrun.raises_either (by simpa using hxy)
  · have hx := lt_length_of_getElem? hu
    have hy := lt_length_of_getElem? hv
    have hacc : bitWord (bitAt a x.toNat == bitAt b y.toNat) = if u = v then 1 else 0 := by
      simp [bitWord, bitAt_of_getElem? hu, bitAt_of_getElem? hv]
    rw [← hacc]
    exact completes_of_putAcc ((hrun.passes (needIdx_eq_ok_iff.mpr hx)).passes (needIdx_eq_ok_iff.mpr hy)).next

/-! ### Whole blocks (R111 to R117) -/

/-- Settles O29: by the rule for one block, and `to_integer` is the sum of R100. -/
theorem btointReadsTheInteger : Obligations.BtointReadsTheInteger := by
  intro ra s
  refine ⟨encodedAs_word (.btoint ra), oneBlock_command rfl fun a _ hrun => ?_⟩
  rw [← toInteger_eq_sum]
  exact completes_of_putAcc hrun.next

/-- Settles O30: by the rule for one block, and `from_integer` bit by bit. -/
theorem bfromintWritesTheInteger : Obligations.BfromintWritesTheInteger := by
  intro ra value s
  refine ⟨encodedAs_word (.bfromint ra value), rfl, oneBlock_command rfl fun a _ hrun => ?_⟩
  rw [← fromInteger_eq_map]
  exact completes_of_putBlk hrun.next

/-- Settles O31: by the rule for one block, the length check, and the string bit by bit. -/
theorem bfromstrWritesTheString : Obligations.BfromstrWritesTheString := by
  intro ra chars s
  refine ⟨fun _ => ⟨encodedAs_word (.bfromstr ra chars), packBytes_length _ _⟩,
    oneBlock_command rfl fun a _ hrun => ⟨fun hlong => ?_, fun hfits => ?_⟩⟩
  · exact hrun.raises (require_eq_error_iff.mpr ⟨by simpa using hlong, rfl⟩)
  · rw [← fromString_eq_map]
    exact completes_of_putBlk (hrun.passes (require_eq_ok_iff.mpr (by simpa using hfits))).next

/-- Settles O32: by the rule for two blocks, both length checks, and the division being its loop (O47). -/
theorem bdivmodWritesTheRemainder : Obligations.BdivmodWritesTheRemainder := by
  intro ra rb rc s
  refine ⟨encodedAs_word (.bdivmod ra rb rc),
    twoBlocks_command rfl fun d g hrun => ⟨fun hbad => ?_, fun hg hd => ?_⟩⟩
  · exact hrun.raises_either (by simpa [Nat.lt_sub_iff_add_lt] using hbad)
  · rw [← gf2Rem_eq_literalRem hg]
    have hnonempty := hrun.passes (require_eq_ok_iff.mpr (by simpa [Nat.pos_iff_ne_zero] using hg))
    exact completes_of_putBlk (hnonempty.passes (require_eq_ok_iff.mpr (by simpa using hd))).next

/-- Settles O33: by the rule for two blocks and the length check. -/
theorem bxorXorsTheBlocks : Obligations.BxorXorsTheBlocks := by
  intro ra rb s
  refine ⟨encodedAs_word (.bxor ra rb), twoBlocks_command rfl fun a b hrun => ⟨fun hne => ?_, fun heq => ?_⟩⟩
  · exact hrun.raises (require_eq_error_iff.mpr ⟨by simpa using hne, rfl⟩)
  · rw [← xorBits_eq_map heq]
    exact completes_of_putBlk (hrun.passes (require_eq_ok_iff.mpr (by simpa using heq))).next

/-- Settles O34: by the rule for one block and the check of every index; the XOR is the parity. -/
theorem bmxorXorsTheListedBits : Obligations.BmxorXorsTheListedBits := by
  intro ra idxs s
  refine ⟨fun _ => ⟨encodedAs_word (.bmxor ra idxs), packLanes_length _ _⟩,
    oneBlock_command rfl fun a _ hrun => ⟨fun hpast => ?_, fun hin => ?_⟩⟩
  · exact hrun.raises (require_eq_error_iff.mpr ⟨by simpa using hpast, rfl⟩)
  · have hacc := bitWord_eq_ofNat (xorAt a (idxs.map fun k => k.toNat))
    rw [toNat_xorAt, List.map_map] at hacc
    exact hacc ▸ completes_of_putAcc (hrun.passes (require_eq_ok_iff.mpr (by simpa using hin))).next

/-- Settles O35: by the rule for two blocks and both range checks; `a` and `b` are the old bits of both registers. -/
theorem bcopyCopiesTheRange : Obligations.BcopyCopiesTheRange := by
  intro ra rb x y n s
  refine ⟨encodedAs_word (.bcopy ra x rb y n),
    twoBlocks_command rfl fun a b hrun => ⟨fun hpast => ?_, fun hd hs => ?_⟩⟩
  · exact hrun.raises_either (by simpa using hpast)
  · rw [← copyRange_eq_map hd hs]
    have hdst := hrun.passes (require_eq_ok_iff.mpr (by simpa using hd))
    exact completes_of_putBlk (hdst.passes (require_eq_ok_iff.mpr (by simpa using hs))).next

/-! ### Re-segmentation (R118) -/

/-- Settles O36: the checks in the order of R118, one after the other. -/
theorem brechunkCutsTheStream : Obligations.BrechunkCutsTheStream := by
  intro ra rb x n s
  simp only [← rechunk_eq_literalRechunk]
  refine ⟨encodedAs_word (.brechunk ra rb x n), command_uninit, fun hready => ?_⟩
  have hsources : Runs (.brechunk ra rb x n) s _ := ⟨hready, rfl⟩
  refine ⟨fun hpast => hsources.raises (needArray_eq_error_iff.mpr ⟨hpast, rfl⟩), fun hin => ?_⟩
  have hread := hsources.passes (needArray_eq_ok_iff.mpr hin)
  refine ⟨fun hmissing => hread.raises (sourceBlks_eq_error_iff.mpr ⟨rfl, hmissing⟩), fun xs hlen hholds => ?_⟩
  have huniform := hread.yields (sourceBlks_eq_ok_iff.mpr ⟨hlen, hholds⟩)
  refine ⟨fun hdiffer => huniform.raises (needUniform_eq_error_iff.mpr ⟨hdiffer, rfl⟩), fun hsame => ?_⟩
  have htarget := huniform.passes (needUniform_eq_ok_iff.mpr hsame)
  refine ⟨fun hzero => htarget.raises (require_eq_error_iff.mpr ⟨by simp [hzero], rfl⟩), fun hn => ?_⟩
  have hout := htarget.passes (require_eq_ok_iff.mpr (by simpa [← BitVec.toNat_inj] using hn))
  exact ⟨fun hover => hout.raises (needArray_eq_error_iff.mpr ⟨hover, rfl⟩),
    fun hfits => completes_of_putBlks hfits (hout.passes (needArray_eq_ok_iff.mpr hfits)).next⟩

end Sys2Proof.Machine
end

section
/-! The syndrome tables (`41` R148, R149): a table as the last recordings of its slots, the retained patterns as a
descending enumeration of integers, and from both the loop of R148 and the tie-break of R149. -/

namespace Sys2Proof.Machine

/-! ### Tables as sequences of writes -/

theorem lastWrite_append_singleton {α : Type} (writes : List (Nat × α)) (w : Nat × α) (v : Nat) :
    lastWrite (writes ++ [w]) v = if w.1 = v then some w.2 else lastWrite writes v := by
  by_cases h : w.1 = v <;> simp [lastWrite, h]

/-- A loop that stores into a table leaves in each slot the last value stored there, or else what was there before. -/
theorem foldl_set_eq_map_lastWrite {α β : Type} (f : α → β) (blank : β) (n : Nat) (writes : List (Nat × α)) :
    writes.foldl (fun table w => table.set w.1 (f w.2)) (List.replicate n blank)
      = (List.range n).map fun v => ((lastWrite writes v).map f).getD blank := by
  induction writes using List.reverseRecOn with
  | nil => simp [lastWrite, List.map_const']
  | append_singleton writes w ih =>
    rw [List.foldl_append, List.foldl_cons, List.foldl_nil, ih]
    refine List.ext_getElem (by simp) fun v _ _ => ?_
    by_cases h : w.1 = v <;> simp [lastWrite_append_singleton, h]

/-! ### The retained patterns (`41` R148) -/

theorem xorBits_zeros_left {n : Nat} {x : Bits} (h : x.length = n) : xorBits (zeros n) x = x := by
  subst h
  induction x with
  | nil => rfl
  | cons b x ih => simpa [zeros, xorBits, List.replicate_succ] using ih

theorem xorBits_self (x : Bits) : xorBits x x = zeros x.length := by
  simp [xorBits, zeros]

theorem fromInteger_zero (len : Nat) : fromInteger len 0 = zeros len := by
  induction len with
  | zero => rfl
  | succ k ih => simp [fromInteger, ih, zeros, List.replicate_succ]

/-- An integer without the highest bit is spelled with a leading 0. -/
theorem fromInteger_succ_of_lt {L e : Nat} (h : e < 2 ^ L) : fromInteger (L + 1) e = false :: fromInteger L e := by
  rw [fromInteger, Nat.testBit_eq_false_of_lt h]

/-- An integer with the highest bit is spelled with a leading 1. -/
theorem fromInteger_succ_two_pow_add {L e : Nat} (h : e < 2 ^ L) :
    fromInteger (L + 1) (2 ^ L + e) = true :: fromInteger L e := by
  have hlow : (2 ^ L + e) % 2 ^ L = e := by rw [Nat.add_mod_left, Nat.mod_eq_of_lt h]
  rw [fromInteger, Nat.testBit_two_pow_add_eq, Nat.testBit_eq_false_of_lt h, ← fromInteger_mod L (2 ^ L + e), hlow,
    Bool.not_false]

theorem popcount_zero (len : Nat) : popcount len 0 = 0 := by
  simp [popcount, fromInteger_zero, zeros, List.count_replicate]

theorem popcount_succ_of_lt {L e : Nat} (h : e < 2 ^ L) : popcount (L + 1) e = popcount L e := by
  simp [popcount, fromInteger_succ_of_lt h]

theorem popcount_succ_two_pow_add {L e : Nat} (h : e < 2 ^ L) :
    popcount (L + 1) (2 ^ L + e) = popcount L e + 1 := by
  simp [popcount, fromInteger_succ_two_pow_add h]

/-- The integers below `2^L` with at most `t` ones, in descending order: those that the loop of R148 retains, and 0. -/
def fewOnes (L t : Nat) : List Nat := (List.range (2 ^ L)).reverse.filter fun e => popcount L e ≤ t

theorem lt_of_mem_fewOnes {L t e : Nat} (h : e ∈ fewOnes L t) : e < 2 ^ L := by
  simpa using List.mem_of_mem_filter h

/-- The integers with the highest bit come first, and that bit is one of their ones. -/
theorem fewOnes_succ (L t : Nat) :
    fewOnes (L + 1) t
      = ((List.range (2 ^ L)).reverse.filter fun e => popcount L e + 1 ≤ t).map (fun e => 2 ^ L + e)
        ++ fewOnes L t := by
  have hrange : (List.range (2 ^ (L + 1))).reverse
      = (List.range (2 ^ L)).reverse.map (fun e => 2 ^ L + e) ++ (List.range (2 ^ L)).reverse := by
    rw [Nat.pow_succ, Nat.mul_two, List.range_add, List.reverse_append, List.map_reverse]
  rw [fewOnes, hrange, List.filter_append, List.filter_map, fewOnes]
  congr 1
  · congr 1
    refine List.filter_congr fun e he => ?_
    rw [Function.comp_apply, popcount_succ_two_pow_add (by simpa using he)]
  · refine List.filter_congr fun e he => ?_
    rw [popcount_succ_of_lt (by simpa using he)]

/-- The patterns of `patternsDown` are the integers with few ones, in descending numeric order. -/
theorem patternsDown_eq_map (L t : Nat) : patternsDown L t = (fewOnes L t).map (fromInteger L) := by
  induction L generalizing t with
  | zero => simp [patternsDown, fewOnes, popcount_zero, fromInteger]
  | succ L ih =>
    have hlow : (fewOnes L t).map (fromInteger (L + 1)) = (fewOnes L t).map fun e => false :: fromInteger L e :=
      List.map_congr_left fun e he => fromInteger_succ_of_lt (lt_of_mem_fewOnes he)
    rw [fewOnes_succ, List.map_append, hlow, List.map_map]
    cases t with
    | zero => simp [patternsDown, ih, Function.comp_def]
    | succ t =>
      have hfilter : ((List.range (2 ^ L)).reverse.filter fun e => popcount L e + 1 ≤ t + 1) = fewOnes L t := by
        simp only [Nat.add_le_add_iff_right, fewOnes]
      have hhigh : (fewOnes L t).map (fromInteger (L + 1) ∘ fun e => 2 ^ L + e)
          = (fewOnes L t).map fun e => true :: fromInteger L e :=
        List.map_congr_left fun e he => fromInteger_succ_two_pow_add (lt_of_mem_fewOnes he)
      rw [hfilter, hhigh, patternsDown, ih, ih, List.map_map, List.map_map]
      rfl

theorem reverse_range_succ (n : Nat) : (List.range (n + 1)).reverse = descending n ++ [0] := by
  induction n with
  | zero => rfl
  | succ n ih => rw [List.range_succ, List.reverse_concat, ih, descending, List.cons_append]

theorem reverse_descending (n : Nat) : (descending n).reverse = List.range' 1 n := by
  induction n with
  | zero => rfl
  | succ n ih => rw [descending, List.reverse_cons, ih, List.range'_concat, Nat.one_mul, Nat.add_comm]

/-- The recordings of R148 are those of the retained integers from `2^len - 1` down to 1. -/
theorem synWrites_eq_map (len t : Nat) (g : Bits) :
    synWrites len t g = ((descending (2 ^ len - 1)).filter fun e => popcount len e ≤ t).map
      fun e => (syndrome g (fromInteger len e), fromInteger len e) := by
  have hall : fewOnes len t = ((descending (2 ^ len - 1)).filter fun e => popcount len e ≤ t) ++ [0] := by
    have hpos : 2 ^ len = 2 ^ len - 1 + 1 := (Nat.sub_add_cancel Nat.one_le_two_pow).symm
    rw [fewOnes, hpos, reverse_range_succ, List.filter_append]
    simp [popcount_zero]
  rw [synWrites, patternsDown_eq_map, hall, List.map_append, List.map_singleton, List.dropLast_concat, List.map_map]
  refine List.map_congr_left fun e _ => ?_
  rw [Function.comp_apply, xorBits_zeros_left (fromInteger_length len e)]

/-! ### The loop (`41` R148) -/

/-- The entry that one recording leaves (R148). -/
def recorded (pat : Bits) : SynEntry := { present := true, pat := pat }

theorem synSlot_eq (len : Nat) (writes : List (Nat × Bits)) (v : Nat) :
    synSlot len writes v = ((lastWrite writes v).map recorded).getD { present := false, pat := zeros len } := by
  unfold synSlot
  cases lastWrite writes v <;> rfl

/-- One pass of the loop of R148 over the table and the test message. -/
def literalSynStep (len t : Nat) (g : Bits) (acc : List SynEntry × Bits) (e : Nat) : List SynEntry × Bits :=
  if popcount len e > t then acc
  else
    let pat := fromInteger len e
    let test := xorBits acc.2 pat
    (acc.1.set (toInteger (literalRem test g)) (recorded pat), xorBits test pat)

theorem literalSyn_eq (len r t : Nat) (g : Bits) :
    literalSyn len r t g = ((descending (2 ^ len - 1)).foldl (literalSynStep len t g)
      (List.replicate (2 ^ r) { present := false, pat := zeros len }, zeros len)).1 := rfl

theorem literalSynStep_of_gt {len t e : Nat} {g : Bits} {acc : List SynEntry × Bits} (he : ¬ popcount len e ≤ t) :
    literalSynStep len t g acc e = acc := if_pos (Nat.not_le.mp he)

/-- A pass over a retained integer records its pattern, and XOR-ing the pattern back off restores the test message. -/
theorem literalSynStep_of_le {len t e : Nat} {g : Bits} (hg : 1 ≤ g.length) (table : List SynEntry)
    (he : popcount len e ≤ t) :
    literalSynStep len t g (table, zeros len) e
      = (table.set (syndrome g (fromInteger len e)) (recorded (fromInteger len e)), zeros len) := by
  have hpat := fromInteger_length len e
  simp only [literalSynStep, gt_iff_lt, Nat.not_lt.mpr he, if_false, xorBits_zeros_left hpat, xorBits_self, hpat,
    syndrome, gf2Rem_eq_literalRem hg]

/-- Every pass starts from the all-zero test message, so the loop only records the retained patterns. -/
theorem foldl_literalSynStep {len t : Nat} {g : Bits} (hg : 1 ≤ g.length) (es : List Nat) (table : List SynEntry) :
    (es.foldl (literalSynStep len t g) (table, zeros len)).1
      = ((es.filter fun e => popcount len e ≤ t).map
          fun e => (syndrome g (fromInteger len e), fromInteger len e)).foldl
            (fun table w => table.set w.1 (recorded w.2)) table := by
  induction es generalizing table with
  | nil => rfl
  | cons e es ih =>
    by_cases he : popcount len e ≤ t
    · rw [List.foldl_cons, literalSynStep_of_le hg table he, ih, List.filter_cons_of_pos (by simpa using he),
        List.map_cons, List.foldl_cons]
    · rw [List.foldl_cons, literalSynStep_of_gt he, ih, List.filter_cons_of_neg (by simpa using he)]

theorem buildSyn_eq_literalSyn {len r t : Nat} {g : Bits} (hg : 1 ≤ g.length) :
    buildSyn len r t g = literalSyn len r t g := by
  rw [literalSyn_eq, foldl_literalSynStep hg, ← synWrites_eq_map, foldl_set_eq_map_lastWrite]
  exact List.map_congr_left fun v _ => synSlot_eq _ _ _

/-- Settles O52: the machine records the retained patterns in the loop's order, and a slot keeps its last recording. -/
theorem syndromeTableIsTheDescendingLoop : Obligations.SyndromeTableIsTheDescendingLoop := by
  intro c f
  exact buildSyn_eq_literalSyn (by rw [gen_length]; exact Nat.succ_pos _)

/-! ### The tie-break (`41` R149) -/

/-- The patterns within the radius that have the syndrome `v`, as integers (R149). -/
def slotHits (len t : Nat) (g : Bits) (v : Nat) : Set Nat :=
  {e | 1 ≤ e ∧ e < 2 ^ len ∧ popcount len e ≤ t ∧ syndrome g (fromInteger len e) = v}

/-- The first hit in ascending order. -/
def firstHit (len t : Nat) (g : Bits) (v : Nat) : Option Nat :=
  (List.range' 1 (2 ^ len - 1)).find? fun e => popcount len e ≤ t ∧ syndrome g (fromInteger len e) = v

/-- The loop descends, so the last recording of a slot is that of the first hit in ascending order. -/
theorem lastWrite_synWrites (len t : Nat) (g : Bits) (v : Nat) :
    lastWrite (synWrites len t g) v = (firstHit len t g v).map (fromInteger len) := by
  rw [lastWrite, synWrites_eq_map, ← List.map_reverse, ← List.filter_reverse, reverse_descending, List.find?_map,
    List.find?_filter, Option.map_map, firstHit]
  simp [Function.comp_def]

theorem mem_range'_one_iff {len e : Nat} : e ∈ List.range' 1 (2 ^ len - 1) ↔ 1 ≤ e ∧ e < 2 ^ len := by
  rw [List.mem_range'_1, Nat.add_sub_cancel' Nat.one_le_two_pow]

theorem isLeast_of_firstHit {len t v e : Nat} {g : Bits} (h : firstHit len t g v = some e) :
    IsLeast (slotHits len t g v) e := by
  obtain ⟨hhit, hmem, hbefore⟩ := List.find?_range'_eq_some.mp h
  obtain ⟨hpos, hlt⟩ := mem_range'_one_iff.mp hmem
  refine ⟨⟨hpos, hlt, of_decide_eq_true hhit⟩, fun e' ⟨hpos', _, hhit'⟩ => ?_⟩
  by_contra hless
  have := hbefore e' hpos' (Nat.not_le.mp hless)
  simp [hhit'] at this

theorem slotHits_eq_empty {len t v : Nat} {g : Bits} (h : firstHit len t g v = none) :
    slotHits len t g v = ∅ := by
  refine Set.eq_empty_of_forall_notMem fun e ⟨hpos, hlt, hhit⟩ => ?_
  exact absurd (decide_eq_true hhit) (List.find?_eq_none.mp h e (mem_range'_one_iff.mpr ⟨hpos, hlt⟩))

theorem synTable_getElem? (c : Config) (f : CrcScheme) {v : Nat} (hv : v < 2 ^ f.parityBits) :
    (synTable c f)[v]? = some (((firstHit f.codeBits (radius c f) (c.gen.get f) v).map
      fun e => recorded (fromInteger f.codeBits e)).getD { present := false, pat := zeros f.codeBits }) := by
  rw [synTable, buildSyn, List.getElem?_map, List.getElem?_range hv, Option.map_some, synSlot_eq, lastWrite_synWrites,
    Option.map_map]
  rfl

/-- Settles O53: a slot holds the first hit in ascending order, which is the least, and is absent when there is none. -/
theorem smallestPatternWinsTheSlot : Obligations.SmallestPatternWinsTheSlot := by
  intro c f v hv hits
  have hhits : hits = slotHits f.codeBits (radius c.val f) (c.val.gen.get f) v := rfl
  refine ⟨_, synTable_getElem? c.val f hv, ?_⟩
  rw [hhits]
  cases hfirst : firstHit f.codeBits (radius c.val f) (c.val.gen.get f) v with
  | none => simp [slotHits_eq_empty hfirst, zeros, IsLeast]
  | some e =>
    have hleast := isLeast_of_firstHit hfirst
    exact ⟨iff_of_true rfl ⟨e, hleast.1⟩, fun e' he' => by rw [hleast.unique he']; rfl, fun habsent => by cases habsent⟩

end Sys2Proof.Machine
end

section
/-! The FEC codec on one block (`41` R147, R151, R156, R157): what encoding and decoding give under each scheme, and
that decoding undoes encoding. -/

namespace Sys2Proof.Machine

/-! ### Encoding and decoding under the five schemes (R147, R151) -/

/-- The XOR of listed bits is 1 iff their sum is odd. -/
theorem xorAt_eq_sum_odd (x : Bits) (ps : List Nat) :
    xorAt x ps = ((ps.map fun p => (x.getD p false).toNat).sum % 2 == 1) := by
  rw [← toNat_xorAt]
  cases xorAt x ps <;> rfl

theorem hammingSyndrome_le (syn : HamSets) (w : Bits) : hammingSyndrome syn w ≤ 7 := by
  have h0 := Bool.toNat_le (xorAt w syn.s0)
  have h1 := Bool.toNat_le (xorAt w syn.s1)
  have h2 := Bool.toNat_le (xorAt w syn.s2)
  unfold hammingSyndrome
  omega

theorem hammingDecode_of_syndrome_zero {syn : HamSets} {w : Bits} (h : hammingSyndrome syn w = 0) :
    hammingDecode syn w = w.take 4 := by
  simp [hammingDecode, h]

/-- A nonzero syndrome names the bit that is flipped; the test against 7 always passes. -/
theorem hammingDecode_of_syndrome_ne_zero {syn : HamSets} {w : Bits} (h : hammingSyndrome syn w ≠ 0) :
    hammingDecode syn w
      = (withBit w (hammingSyndrome syn w - 1) (!bitAt w (hammingSyndrome syn w - 1))).take 4 := by
  rw [hammingDecode, if_pos ⟨h, hammingSyndrome_le syn w⟩]

theorem crcDecode_of_syndrome_zero {g w : Bits} (len k : Nat) (table : List SynEntry) (h : syndrome g w = 0) :
    crcDecode g len k table w = w.take k := by
  simp [crcDecode, h]

theorem synLookup_of_getElem? {table : List SynEntry} {v : Nat} {e : SynEntry} (len : Nat) (h : table[v]? = some e) :
    synLookup len table v = e := by
  rw [synLookup, List.getD_eq_getElem?_getD, h, Option.getD_some]

theorem crcDecode_of_syndrome_ne_zero {g w : Bits} {len k : Nat} {table : List SynEntry} {e : SynEntry}
    (h : syndrome g w ≠ 0) (he : table[syndrome g w]? = some e) :
    crcDecode g len k table w = (if e.present then xorBits w e.pat else w).take k := by
  simp [crcDecode, synLookup_of_getElem? len he, h]

theorem codeBits_eq (f : CrcScheme) : f.codeBits = f.dataBits + f.parityBits := by cases f <;> rfl

/-- A divisor of a CRC-style scheme leaves as many bits as the scheme has parity bits. -/
theorem gf2Rem_length_of_gen {g d : Bits} {r : Nat} (hg : g.length = r + 1) (hd : r ≤ d.length) :
    (gf2Rem d g).length = r := by
  rw [gf2Rem_length]
  omega

theorem crcEncode_length {g d : Bits} {r : Nat} (hg : g.length = r + 1) :
    (crcEncode g r d).length = d.length + r := by
  rw [crcEncode, List.length_append, gf2Rem_length_of_gen hg (by simp)]

/-- Settles O49: one equation for each branch of the coders and decoders. -/
theorem codecFollowsTheSchemes : Obligations.CodecFollowsTheSchemes := by
  unfold Obligations.CodecFollowsTheSchemes
  intro parity
  have hparity : ∀ x ps, parity x ps = xorAt x ps := fun x ps => (xorAt_eq_sum_odd x ps).symm
  simp only [hparity]
  refine ⟨fun enc genr d => ⟨rfl, rfl, fun f hg hd => ⟨?_, ?_⟩⟩, fun syn genr st w => ⟨rfl, fun v hv => ?_, ?_⟩⟩
  · rw [← gf2Rem_eq_literalRem (by omega)]
    rfl
  · rw [fecEncode, crcEncode_length hg, hd, codeBits_eq]
  · obtain rfl : v = hammingSyndrome syn w := hv
    refine ⟨hammingDecode_of_syndrome_zero, fun b hne hb => ?_⟩
    rw [fecDecode, hammingDecode_of_syndrome_ne_zero hne, bitAt_of_getElem? hb, Bool.xor_true, withBit]
  · intro f v hg _ hv
    rw [← gf2Rem_eq_literalRem (by omega)] at hv
    obtain rfl : v = syndrome (genr.get f) w := hv
    exact ⟨crcDecode_of_syndrome_zero _ _ _, fun e => crcDecode_of_syndrome_ne_zero⟩

/-! ### A CRC-style codeword has the syndrome 0 (R156) -/

theorem xorPrefix_xorBits (w z g : Bits) : xorPrefix (xorBits w z) g = xorBits (xorPrefix w g) z := by
  induction w generalizing z g with
  | nil => simp [xorBits, xorPrefix_nil_left]
  | cons b w ih =>
    cases g with
    | nil => simp [xorPrefix_nil_right]
    | cons c g =>
      cases z with
      | nil => simp [xorBits, xorPrefix_nil_left]
      | cons a z =>
        have hhead : ((b ^^ a) ^^ c) = ((b ^^ c) ^^ a) := by rw [Bool.xor_assoc, Bool.xor_comm a, Bool.xor_assoc]
        simpa [xorBits, xorPrefix, hhead] using ih z g

/-- What is XOR-ed into the bits that the division does not visit comes out in the remainder. -/
theorem gf2Steps_xorBits (g u : Bits) (k : Nat) (w : Bits) :
    gf2Steps g k (xorBits w (zeros k ++ u)) = xorBits (gf2Steps g k w) u := by
  induction k generalizing w with
  | zero => rfl
  | succ k ih =>
    cases w with
    | nil => simp [xorBits, gf2Steps]
    | cons b w =>
      have hcons : xorBits (b :: w) (zeros (k + 1) ++ u) = b :: xorBits w (zeros k ++ u) := by
        simp [xorBits, zeros, List.replicate_succ]
      cases b with
      | false => simp [hcons, gf2Steps, ih]
      | true => simp [hcons, gf2Steps, xorPrefix_xorBits, ih]

theorem toInteger_zeros (n : Nat) : toInteger (zeros n) = 0 := by
  rw [← fromInteger_zero, toInteger_fromInteger, Nat.zero_mod]

theorem xorBits_zeros_right (x : Bits) : xorBits x (zeros x.length) = x := by
  rw [xorBits, List.zipWith_comm_of_comm Bool.xor_comm]
  exact xorBits_zeros_left rfl

/-- Appending bits is XOR-ing them into appended zeros. -/
theorem append_eq_xorBits (d u : Bits) : d ++ u = xorBits (d ++ zeros u.length) (zeros d.length ++ u) := by
  rw [xorBits, List.zipWith_append (zeros_length _).symm, ← xorBits, ← xorBits, xorBits_zeros_right,
    xorBits_zeros_left rfl]

/-- A divisor one longer than the appended bits visits the data bits and no more. -/
theorem gf2Rem_append {g u : Bits} (d : Bits) (hg : g.length = u.length + 1) :
    gf2Rem (d ++ u) g = gf2Steps g d.length (d ++ u) := by
  rw [gf2Rem, hg, List.length_append, Nat.add_assoc, Nat.add_sub_cancel]

/-- Appending the remainder in place of the zeros XORs it into the remainder, which cancels. -/
theorem syndrome_crcEncode {g d : Bits} {r : Nat} (hg : g.length = r + 1) : syndrome g (crcEncode g r d) = 0 := by
  have hlen : (gf2Rem (d ++ zeros r) g).length = r := gf2Rem_length_of_gen hg (by simp)
  have hrem : gf2Rem (d ++ zeros r) g = gf2Steps g d.length (d ++ zeros r) := gf2Rem_append d (by simpa using hg)
  have hcancel : gf2Rem (crcEncode g r d) g = zeros r := by
    rw [crcEncode, gf2Rem_append d (by rw [hlen, hg]), append_eq_xorBits, hlen, gf2Steps_xorBits, ← hrem, xorBits_self,
      hlen]
  rw [syndrome, hcancel, toInteger_zeros]

theorem crcDecode_crcEncode {g d : Bits} {r : Nat} (hg : g.length = r + 1) (len : Nat) (table : List SynEntry) :
    crcDecode g len d.length table (crcEncode g r d) = d := by
  rw [crcDecode_of_syndrome_zero _ _ _ (syndrome_crcEncode hg), crcEncode, List.take_left]

/-! ### Hamming(7,4) corrects every single flip (R146, R157) -/

/-- Constraint R146 of a legal configuration, for every data block. -/
theorem hammingSyndrome_of_legal {enc syn : HamSets} (h : hammingLegal enc syn = true) {d : Bits} (hd : d.length = 4) :
    hammingSyndrome syn (hammingEncode enc d) = 0 ∧
    ∀ p < 7, hammingSyndrome syn (withBit (hammingEncode enc d) p (!bitAt (hammingEncode enc d) p)) = p + 1 := by
  have hall := (Bool.and_eq_true_iff.mp h).2
  have hlt : toInteger d < 16 := by simpa [hd] using toInteger_lt d
  have hword := List.all_eq_true.mp hall _ (List.mem_range.mpr hlt)
  have hspell : fromInteger 4 (toInteger d) = d := by rw [← hd, fromInteger_toInteger]
  simpa [hspell] using hword

theorem withBit_withBit_not {w : Bits} {p : Nat} (hp : p < w.length) :
    withBit (withBit w p (!bitAt w p)) p (!bitAt (withBit w p (!bitAt w p)) p) = w := by
  simp [withBit, bitAt, hp]

theorem take_hammingEncode {d : Bits} (enc : HamSets) (hd : d.length = 4) : (hammingEncode enc d).take 4 = d := by
  rw [hammingEncode, ← hd, List.take_left]

theorem hammingDecode_hammingEncode {enc syn : HamSets} (h : hammingLegal enc syn = true) {d : Bits}
    (hd : d.length = 4) : hammingDecode syn (hammingEncode enc d) = d := by
  rw [hammingDecode_of_syndrome_zero (hammingSyndrome_of_legal h hd).1, take_hammingEncode enc hd]

theorem hammingDecode_flip {enc syn : HamSets} (h : hammingLegal enc syn = true) {d : Bits} (hd : d.length = 4)
    {p : Nat} (hp : p < 7) :
    hammingDecode syn (withBit (hammingEncode enc d) p (!bitAt (hammingEncode enc d) p)) = d := by
  have hsyn := (hammingSyndrome_of_legal h hd).2 p hp
  rw [hammingDecode_of_syndrome_ne_zero (by omega), hsyn, Nat.add_sub_cancel,
    withBit_withBit_not (by simp [hd, hp]), take_hammingEncode enc hd]

end Sys2Proof.Machine
end

section
/-! `INIT` and the FEC commands (`41` R140, R150 to R157): the common form of `FENC` and `FDEC` said once, the two
readouts, and the commands run one after the other. -/

namespace Sys2Proof.Machine

/-! ### Initialisation (R140) -/

theorem builtThr_get (c : Config) (m : ModScheme) : (builtThr c).get m.id = threshold c m := by
  cases m <;> rfl

/-- Settles O20: in UNINIT `INIT` leaves `buildTables`, whose fields are known; in READY it leaves the state. -/
theorem initBuildsTheTablesOnce : Obligations.InitBuildsTheTablesOnce := by
  intro s
  refine ⟨encodedAs_word .init, fun huninit => ⟨s.buildTables, by simp [exec, execInit, huninit], ?_⟩,
    fun hready => by simp [exec, execInit, hready]⟩
  exact ⟨rfl, rfl, builtSt_get _, builtCt_get _, builtThr_get _, fun _ => rfl, fun _ => rfl, rfl, rfl, rfl, rfl, rfl,
    rfl, rfl, rfl⟩

/-! ### The checks of a scheme identifier (R75) -/

theorem needFec_of_gt {sch : SchemeId} (h : 4 < sch.toNat) : needFec sch = .error .badenum := by
  have hnone : FecScheme.ofId sch = none := by
    unfold FecScheme.ofId
    split <;> simp_all
  rw [needFec, hnone, present_none]

theorem needCrc_of_outside {sch : SchemeId} (h : sch.toNat < 2 ∨ 4 < sch.toNat) : needCrc sch = .error .badenum := by
  have hnone : CrcScheme.ofId sch = none := by
    unfold CrcScheme.ofId
    split <;> simp_all
  rw [needCrc, hnone, present_none]

/-! ### The commands on arrays (R150, R152) -/

section CodeArray

variable {i : Instr} {ra rb : RegIx} {sch : SchemeId} {x : Num12} {s : State} {size : FecScheme → Option Nat}
  {code : FecScheme → Bits → Bits}

/-- The part that `FENC` and `FDEC` have in common: every check in the order of R150, and then the whole effect. -/
theorem codeArray_command
    (hexec : exec i s = command i s (needFec sch >>= fun f => codeArray ra rb x.toNat (size f) (code f) s)) :
    (s.phase = .uninit → Raises i s .nullref) ∧
    (s.phase = .ready →
      (4 < sch.toNat → Raises i s .badenum) ∧
      (∀ f, FecScheme.ofId sch = some f →
        (64 < rb.toNat + x.toNat → Raises i s .range) ∧
        (rb.toNat + x.toNat ≤ 64 →
          (MissingBlk s rb.toNat x.toNat → Raises i s .nullref) ∧
          (∀ xs, xs.length = x.toNat → HoldsBlks s rb.toNat xs →
            ((∃ k, size f = some k ∧ ∃ u ∈ xs, u.length ≠ k) → Raises i s .range) ∧
            ((∀ k, size f = some k → ∀ u ∈ xs, u.length = k) →
              (64 < ra.toNat + x.toNat → Raises i s .range) ∧
              (ra.toNat + x.toNat ≤ 64 →
                Completes i s (withBlks s ra.toNat (xs.map (code f))) s.pt (BitVec.ofNat 64 x.toNat)
                  (x.toNat == 0))))))) := by
  refine ⟨fun huninit => hexec.trans (command_uninit huninit), fun hready => ?_⟩
  have hrun : Runs i s _ := ⟨hready, hexec⟩
  refine ⟨fun hbad => hrun.raises (needFec_of_gt hbad), fun f hf => ?_⟩
  have hsources := hrun.yields (present_eq_ok_iff.mpr hf)
  refine ⟨fun hpast => hsources.raises (needArray_eq_error_iff.mpr ⟨hpast, rfl⟩), fun hin => ?_⟩
  have hread := hsources.passes (needArray_eq_ok_iff.mpr hin)
  refine ⟨fun hmissing => hread.raises (sourceBlks_eq_error_iff.mpr ⟨rfl, hmissing⟩), fun xs hlen hholds => ?_⟩
  have hsized := hread.yields (sourceBlks_eq_ok_iff.mpr ⟨hlen, hholds⟩)
  refine ⟨fun hwrong => hsized.raises (needSize_eq_error_iff.mpr ⟨hwrong, rfl⟩), fun hsize => ?_⟩
  have hdest := hsized.passes (needSize_eq_ok_iff.mpr hsize)
  exact ⟨fun hover => hdest.raises (needArray_eq_error_iff.mpr ⟨hover, rfl⟩),
    fun hfits => completes_of_putBlks (by rwa [List.length_map, hlen])
      (hdest.passes (needArray_eq_ok_iff.mpr hfits)).next⟩

end CodeArray

/-- Settles O37: by the common form of the two array commands. -/
theorem fencEncodesEveryBlock : Obligations.FencEncodesEveryBlock := fun ra rb sch x _ =>
  ⟨encodedAs_word (.fenc ra rb sch x), codeArray_command rfl⟩

/-- Settles O38: by the common form of the two array commands, which looks at no content of a block. -/
theorem fdecDecodesEveryBlock : Obligations.FdecDecodesEveryBlock := fun ra rb sch x _ =>
  ⟨encodedAs_word (.fdec ra rb sch x), codeArray_command rfl⟩

/-! ### The readouts (R154, R155) -/

/-- Settles O39: the checks in the order of R154; a present entry is the one that the table holds. -/
theorem fsynrdReadsATableEntry : Obligations.FsynrdReadsATableEntry := by
  intro ra sch x s
  refine ⟨encodedAs_word (.fsynrd ra sch x), command_uninit, fun hready => ?_⟩
  have hrun : Runs (.fsynrd ra sch x) s _ := ⟨hready, rfl⟩
  refine ⟨fun hbad => hrun.raises (needCrc_of_outside hbad), fun f hf => ?_⟩
  have hslot := hrun.yields (present_eq_ok_iff.mpr hf)
  refine ⟨fun hpast => hslot.raises (require_eq_error_iff.mpr ⟨by simpa using hpast, rfl⟩), fun e hx he => ?_⟩
  have hdone := (hslot.passes (require_eq_ok_iff.mpr (decide_eq_true hx))).next
  rw [synLookup_of_getElem? f.codeBits he] at hdone
  exact ⟨_, hdone, (sameControl_putBlk _ _ _).trans (sameControl_putAcc _ _), blk_putBlk s ra.isLt e.pat,
    fun _ => rfl, rfl, rfl⟩

/-- Settles O40: the one check, and then one register is written. -/
theorem fgenrdReadsAGenerator : Obligations.FgenrdReadsAGenerator := by
  intro ra sch s
  refine ⟨encodedAs_word (.fgenrd ra sch), command_uninit, fun hready => ?_⟩
  have hrun : Runs (.fgenrd ra sch) s _ := ⟨hready, rfl⟩
  exact ⟨fun hbad => hrun.raises (needCrc_of_outside hbad),
    fun f hf => completes_of_putBlk (hrun.yields (present_eq_ok_iff.mpr hf)).next⟩

/-! ### Encoding, then decoding (R156, R157) -/

theorem holdsBlks_of_withBlks {s t : State} {base : Nat} {xs : List Bits}
    (h : ∀ r, t.blk r = withBlks s base xs r) : HoldsBlks t base xs := by
  intro j hj
  simp [h, withBlks, hj]

theorem holdsBlks_singleton {s : State} {base : Nat} {x : Bits} : HoldsBlks s base [x] ↔ s.blk base = some x := by
  simp [holdsBlks_cons, holdsBlks_nil]

/-- What `FENC` and `FDEC` need to complete: READY, a scheme, and arrays in range whose sources `xs` have the
scheme's size. -/
structure ArrayOperands (s : State) (ra rb : RegIx) (sch : SchemeId) (x : Num12) (f : FecScheme) (size : Option Nat)
    (xs : List Bits) : Prop where
  ready : s.phase = .ready
  scheme : FecScheme.ofId sch = some f
  source : rb.toNat + x.toNat ≤ 64
  dest : ra.toNat + x.toNat ≤ 64
  count : xs.length = x.toNat
  holds : HoldsBlks s rb.toNat xs
  sized : ∀ k, size = some k → ∀ u ∈ xs, u.length = k

section Next

variable {ra rb : RegIx} {sch : SchemeId} {x : Num12} {s : State} {f : FecScheme} {xs : List Bits}

theorem codeArray_next {i : Instr} {size : FecScheme → Option Nat} {code : FecScheme → Bits → Bits}
    (hexec : exec i s = command i s (needFec sch >>= fun f => codeArray ra rb x.toNat (size f) (code f) s))
    (h : ArrayOperands s ra rb sch x f (size f) xs) :
    ∃ t, exec i s = .next t ∧ SameControl s t ∧ HoldsBlks t ra.toNat (xs.map (code f)) := by
  obtain ⟨-, hcommand⟩ := codeArray_command hexec
  obtain ⟨-, hscheme⟩ := hcommand h.ready
  obtain ⟨-, hsource⟩ := hscheme f h.scheme
  obtain ⟨-, hblocks⟩ := hsource h.source
  obtain ⟨-, hsized⟩ := hblocks xs h.count h.holds
  obtain ⟨-, hdest⟩ := hsized h.sized
  obtain ⟨t, hnext, heffect⟩ := hdest h.dest
  exact ⟨t, hnext, heffect.control, holdsBlks_of_withBlks heffect.blks⟩

theorem fenc_next (h : ArrayOperands s ra rb sch x f f.encodeSize xs) :
    ∃ t, exec (.fenc ra rb sch x) s = .next t ∧ SameControl s t ∧
      HoldsBlks t ra.toNat (xs.map (fecEncode s.cfg.val.hamEnc s.genr f)) :=
  codeArray_next (size := FecScheme.encodeSize) rfl h

theorem fdec_next (h : ArrayOperands s ra rb sch x f f.decodeSize xs) :
    ∃ t, exec (.fdec ra rb sch x) s = .next t ∧ SameControl s t ∧
      HoldsBlks t ra.toNat (xs.map (fecDecode s.cfg.val.hamSyn s.genr s.st f)) :=
  codeArray_next (size := FecScheme.decodeSize) rfl h

end Next

theorem hammingLegal_of_legal (c : LegalConfig) : hammingLegal c.val.hamEnc c.val.hamSyn = true := by
  obtain ⟨-, -, ⟨-, hham⟩, -⟩ := configLegal_iff.mp c.property
  exact hham

/-- What `FENC` writes has the size that `FDEC` asks for. -/
theorem fecEncode_sized (c : LegalConfig) {f : FecScheme} {d : Bits} (hd : ∀ k, f.encodeSize = some k → d.length = k)
    {n : Nat} (hn : f.decodeSize = some n) : (fecEncode c.val.hamEnc c.val.gen f d).length = n := by
  cases f with
  | noCode => cases hn
  | hamming74 =>
    obtain rfl : 7 = n := Option.some.inj hn
    rw [fecEncode, hammingEncode_length, hd 4 rfl]
  | crc g =>
    obtain rfl : g.codeBits = n := Option.some.inj hn
    rw [fecEncode, crcEncode_length (gen_length c g), hd _ rfl, codeBits_eq]

/-- Decoding undoes encoding, whatever the tables hold: a codeword has the syndrome 0 (R156). -/
theorem fecDecode_fecEncode (c : LegalConfig) (st : PerCrc (List SynEntry)) {f : FecScheme} {d : Bits}
    (hd : ∀ k, f.encodeSize = some k → d.length = k) :
    fecDecode c.val.hamSyn c.val.gen st f (fecEncode c.val.hamEnc c.val.gen f d) = d := by
  cases f with
  | noCode => rfl
  | hamming74 => exact hammingDecode_hammingEncode (hammingLegal_of_legal c) (hd 4 rfl)
  | crc g =>
    rw [fecEncode, fecDecode, ← hd _ rfl]
    exact crcDecode_crcEncode (gen_length c g) _ _

/-- Settles O50: `FENC` leaves blocks that `FDEC` accepts, and the tables as they are; each block decodes to itself. -/
theorem encodeThenDecodeRestoresBlocks : Obligations.EncodeThenDecodeRestoresBlocks := by
  intro ra rb rc sch f x s xs hready hbuilt hf hra hrb hrc hlen hholds hsize
  obtain ⟨hgenr, -⟩ := hbuilt
  replace hgenr : s.genr = s.cfg.val.gen := hgenr
  obtain ⟨t, hfenc, hst, hcoded⟩ := fenc_next ⟨hready, hf, hrb, hra, hlen, hholds, hsize⟩
  rw [hgenr] at hcoded
  obtain ⟨u, hfdec, -, hdecoded⟩ := fdec_next (ra := rc) (f := f)
    ⟨hst.phase.trans hready, hf, hra, hrc, by rwa [List.length_map], hcoded, fun k hk y hy => by
      obtain ⟨d, hd, rfl⟩ := List.mem_map.mp hy
      exact fecEncode_sized s.cfg (fun k hk => hsize k hk d hd) hk⟩
  have hrestored : xs.map (fecDecode s.cfg.val.hamSyn s.cfg.val.gen s.st f ∘
      fecEncode s.cfg.val.hamEnc s.cfg.val.gen f) = xs := by
    conv_rhs => rw [← List.map_id xs]
    exact List.map_congr_left fun d hd => fecDecode_fecEncode s.cfg s.st fun k hk => hsize k hk d hd
  rw [hst.cfg, hst.genr, hst.st, hgenr, List.map_map, hrestored] at hdecoded
  exact ⟨t, u, hfenc, hfdec, hdecoded⟩

theorem bflip_next {ra : RegIx} {p : Num12} {s : State} {w : Bits} (hready : s.phase = .ready)
    (hw : s.blk ra.toNat = some w) (hp : p.toNat < w.length) :
    ∃ t, exec (.bflip ra p) s = .next t ∧ SameControl s t ∧
      t.blk ra.toNat = some (withBit w p.toNat (!bitAt w p.toNat)) := by
  obtain ⟨-, -, hcommand⟩ := bflipInvertsOneBit ra p s
  obtain ⟨-, hblock⟩ := hcommand hready
  obtain ⟨-, hflip⟩ := hblock w hw
  obtain ⟨t, hnext, heffect⟩ := hflip _ (List.getElem?_eq_getElem hp)
  refine ⟨t, hnext, heffect.control, ?_⟩
  rw [heffect.blks]
  simp [withBlk, withBit, bitAt, hp]

/-- Settles O51: a legal choice of the subsets names the flipped position by the syndrome, so `FDEC` flips it back. -/
theorem hammingCorrectsEverySingleFlip : Obligations.HammingCorrectsEverySingleFlip := by
  intro ra rb rc p s d hready hd hlen hp
  have hfits : ∀ r : RegIx, r.toNat + (1 : Num12).toNat ≤ 64 := fun r => r.isLt
  obtain ⟨t, hfenc, hst, hcoded⟩ := fenc_next (ra := ra) (f := .hamming74) (sch := 1) (x := 1) (xs := [d])
    ⟨hready, rfl, hfits rb, hfits ra, rfl, holdsBlks_singleton.mpr hd, by rintro k ⟨⟩; simpa using hlen⟩
  replace hcoded : t.blk ra.toNat = some (hammingEncode s.cfg.val.hamEnc d) := holdsBlks_singleton.mp hcoded
  have htready : t.phase = .ready := hst.phase.trans hready
  obtain ⟨u, hbflip, htu, hflipped⟩ := bflip_next (p := p) htready hcoded (by rw [hammingEncode_length, hlen]; exact hp)
  obtain ⟨v, hfdec, -, hdecoded⟩ := fdec_next (ra := rc) (f := .hamming74) (sch := 1) (x := 1)
    ⟨htu.phase.trans htready, rfl, hfits ra, hfits rc, rfl, holdsBlks_singleton.mpr hflipped,
      by rintro k ⟨⟩; simp [hlen]⟩
  rw [htu.cfg, hst.cfg] at hdecoded
  replace hdecoded := holdsBlks_singleton.mp hdecoded
  rw [fecDecode, hammingDecode_flip (hammingLegal_of_legal s.cfg) hlen hp] at hdecoded
  exact ⟨t, u, v, hfenc, hbflip, hfdec, hdecoded⟩

end Sys2Proof.Machine
end

section
/-! The pure functions of the modem (`42` R183 to R197): the Gray code, the constellation tables as the tables that
the loops of R184 and R189 leave, and what the search of R195 finds. -/

namespace Sys2Proof.Machine

/-! ### The Gray code (R183) -/

/-- The code is linear over XOR. -/
theorem gray_xor (i j : Nat) : gray (i ^^^ j) = gray i ^^^ gray j := by
  simp only [gray, Nat.shiftRight_xor_distrib]
  ac_rfl

theorem gray_eq_zero {i : Nat} (h : gray i = 0) : i = 0 := by
  have hhalf : i = i / 2 := by simpa [gray, Nat.shiftRight_eq_div_pow] using h
  omega

theorem gray_injective : Function.Injective gray := fun i j h =>
  Nat.xor_eq_zero_iff.mp (gray_eq_zero (by rw [gray_xor, h, Nat.xor_self]))

theorem gray_lt {i b : Nat} (h : i < 2 ^ b) : gray i < 2 ^ b :=
  Nat.xor_lt_two_pow h (lt_of_le_of_lt (Nat.shiftRight_le i 1) h)

/-- Counting up always changes bit 0; the bits above it are those of the halves. -/
theorem xor_succ_eq (i : Nat) : i ^^^ (i + 1) = 2 * (i / 2 ^^^ (i + 1) / 2) + 1 := by
  have hhalf : (i ^^^ (i + 1)) / 2 = i / 2 ^^^ (i + 1) / 2 := Nat.xor_div_two
  have hparity : (i ^^^ (i + 1)) % 2 = (i + (i + 1)) % 2 := Nat.xor_mod_two_eq
  omega

/-- Counting up changes the low bits of a number, up to its lowest 0, and no others. -/
theorem exists_xor_succ_eq (i : Nat) : ∃ k, i ^^^ (i + 1) = 2 ^ (k + 1) - 1 := by
  induction i using Nat.strongRecOn with
  | ind i ih =>
    rw [xor_succ_eq]
    rcases Nat.mod_two_eq_zero_or_one i with heven | hodd
    · have hsame : (i + 1) / 2 = i / 2 := by omega
      exact ⟨0, by rw [hsame, Nat.xor_self]; rfl⟩
    · have hnext : (i + 1) / 2 = i / 2 + 1 := by omega
      obtain ⟨k, hk⟩ := ih (i / 2) (by omega)
      refine ⟨k + 1, ?_⟩
      have hpos : 0 < 2 ^ (k + 1) := Nat.two_pow_pos _
      rw [hnext, hk, Nat.pow_succ 2 (k + 1)]
      omega

/-- Of the low ones of a number the code keeps the highest. -/
theorem gray_two_pow_sub_one (k : Nat) : gray (2 ^ (k + 1) - 1) = 2 ^ k := by
  refine Nat.eq_of_testBit_eq fun i => ?_
  simp only [gray, Nat.testBit_xor, Nat.testBit_shiftRight, Nat.testBit_two_pow_sub_one, Nat.testBit_two_pow]
  grind

/-- Settles O56: neighbours differ in their low bits only, of which the code keeps one; it is linear with kernel 0. -/
theorem grayNeighboursDifferInOneBit : Obligations.GrayNeighboursDifferInOneBit := by
  refine ⟨fun i => ?_, fun b => ?_⟩
  · obtain ⟨k, hk⟩ := exists_xor_succ_eq i
    exact ⟨k, by rw [← gray_xor, hk, gray_two_pow_sub_one]⟩
  · have hmaps : Set.MapsTo gray {i | i < 2 ^ b} {i | i < 2 ^ b} := fun _ => gray_lt
    exact ((Set.finite_lt_nat _).injOn_iff_bijOn_of_mapsTo hmaps).mp gray_injective.injOn

/-! ### The tables as the tables that the loops leave (R184, R189) -/

@[simp] theorem tableOf_length (volume : Nat) (writes : List (Nat × Point)) :
    (tableOf volume writes).length = volume := by
  simp [tableOf]

/-- The last write to each codeword is what storing the writes one after the other leaves. -/
theorem tableOf_eq_foldl (volume : Nat) (writes : List (Nat × Point)) :
    tableOf volume writes
      = writes.foldl (fun table w => table.set w.1 w.2) (List.replicate volume origin) := by
  rw [foldl_set_eq_map_lastWrite fun t => t]
  simp [tableOf]

theorem constellation_of_psk {m : ModScheme} {ix : Fin 11} {isGray : Bool} (h : m.shape = .psk ix isGray)
    (c : Config) : constellation c m = tableOf m.volume (pskWrites isGray m.volume (c.pskPt.get ix)) := by
  simp only [constellation, h]

theorem constellation_of_qam {m : ModScheme} {ix : Fin 6} {b : Nat} {cross : Bool} (h : m.shape = .qam ix b cross)
    (c : Config) : constellation c m = tableOf m.volume (qamWrites b cross (c.normQ.get ix)) := by
  simp only [constellation, h]

theorem constellation_length (c : Config) (m : ModScheme) : (constellation c m).length = 2 ^ m.bits := by
  cases h : m.shape with
  | psk ix isGray => rw [constellation_of_psk h, tableOf_length, ModScheme.volume]
  | qam ix b cross => rw [constellation_of_qam h, tableOf_length, ModScheme.volume]

theorem tableOf_pskWrites (isGray : Bool) (volume : Nat) (pts : List Point) :
    tableOf volume (pskWrites isGray volume pts) = literalPsk isGray volume pts := by
  rw [tableOf_eq_foldl, pskWrites, List.foldl_map]
  rfl

/-- The grid point `(i, q)` scaled by the normalisation constant (R189). -/
def scaled (g : Int) (e : Int × Int) : Point := { I := e.1 * g, Q := e.2 * g }

/-- The loop of R189 at a point that it keeps: store it under `gray(seq)` and advance `seq`. -/
def placePoint (g : Int) (a : QamLoop) (e : Int × Int) : QamLoop :=
  { a with table := a.table.set (gray a.seq) (scaled g e), seq := a.seq + 1 }

theorem literalQamPoint_eq (b : Nat) (cross : Bool) (g i : Int) (a : QamLoop) (q : Int) :
    literalQamPoint b cross g i a q
      = if !(cross && i.natAbs == b && q.natAbs == b) then placePoint g a (i, q) else a := by
  have hcorner : cross = true ∧ |i| = b ∧ |q| = b ↔ (cross && i.natAbs == b && q.natAbs == b) = true := by
    simp only [Int.abs_eq_natAbs, Nat.cast_inj, Bool.and_eq_true, beq_iff_eq, and_assoc]
  rw [literalQamPoint]
  cases hkept : cross && i.natAbs == b && q.natAbs == b with
  | true => exact if_pos (hcorner.mpr hkept)
  | false => exact if_neg fun hskip => Bool.false_ne_true (hkept ▸ hcorner.mp hskip)

/-- One direction of a column: the loop places the points that the machine's filter keeps. -/
theorem foldl_literalQamPoint (b : Nat) (cross : Bool) (g i : Int) (a : QamLoop) (qs : List Int) :
    qs.foldl (literalQamPoint b cross g i) a
      = ((qs.filter fun q => !(cross && i.natAbs == b && q.natAbs == b)).map fun q => (i, q)).foldl
          (placePoint g) a := by
  rw [List.foldl_map, List.foldl_filter]
  exact congrArg (fun f => qs.foldl f a) (funext₂ (literalQamPoint_eq b cross g i))

theorem oddAxis_eq_map (b : Nat) :
    oddAxis b = (List.range (b + 1)).map fun (k : Nat) => -(b : Int) + 2 * k :=
  List.map_congr_left fun k _ => by omega

theorem reverse_oddAxis_eq_map (b : Nat) :
    (oddAxis b).reverse = (List.range (b + 1)).map fun (k : Nat) => (b : Int) - 2 * k := by
  refine List.ext_getElem (by simp [oddAxis]) fun k hk _ => ?_
  simp [oddAxis] at hk ⊢
  omega

/-- One column of the loop of R189 places the machine's column and changes the direction. -/
theorem literalQamColumn_eq (b : Nat) (cross : Bool) (g : Int) (a : QamLoop) (i : Int) :
    literalQamColumn b cross g a i
      = { (qamColumn b cross a.up i).foldl (placePoint g) a with up := !a.up } := by
  simp only [literalQamColumn, ← oddAxis_eq_map, ← reverse_oddAxis_eq_map, foldl_literalQamPoint, qamColumn]

/-- Placing points neither reads nor writes the direction. -/
theorem foldl_placePoint_up (g : Int) (a : QamLoop) (up : Bool) (path : List (Int × Int)) :
    path.foldl (placePoint g) { a with up := up } = { path.foldl (placePoint g) a with up := up } := by
  induction path generalizing a with
  | nil => rfl
  | cons e path ih => exact ih (placePoint g a e)

/-- The columns of the loop of R189 place the points of the serpentine traversal in its order. -/
theorem table_foldl_literalQamColumn (b : Nat) (cross : Bool) (g : Int) (a : QamLoop) (is : List Int) :
    (is.foldl (literalQamColumn b cross g) a).table
      = ((serpentine b cross a.up is).foldl (placePoint g) a).table := by
  induction is generalizing a with
  | nil => rfl
  | cons i is ih =>
    rw [List.foldl_cons, ih, literalQamColumn_eq, foldl_placePoint_up, serpentine, List.foldl_append]

/-- Placing a path stores its points under the Gray codes of consecutive numbers. -/
theorem table_foldl_placePoint (g : Int) (a : QamLoop) (path : List (Int × Int)) :
    (path.foldl (placePoint g) a).table
      = ((List.range' a.seq path.length).zip path).foldl
          (fun table e => table.set (gray e.1) (scaled g e.2)) a.table := by
  induction path generalizing a with
  | nil => rfl
  | cons e path ih => rw [List.foldl_cons, ih, List.length_cons, List.range'_succ, List.zip_cons_cons]; rfl

theorem tableOf_qamWrites (b : Nat) (cross : Bool) (g : Int) (volume : Nat) :
    tableOf volume (qamWrites b cross g) = literalQam b cross g volume := by
  rw [literalQam, ← oddAxis_eq_map, table_foldl_literalQamColumn, table_foldl_placePoint, tableOf_eq_foldl, qamWrites,
    List.foldl_map, List.range_eq_range']
  rfl

/-- Settles O55: storing one after the other leaves the last write to each codeword, and the loop of R189 makes its
writes in the order of the serpentine traversal. -/
theorem constellationsAreTheConstructionLoops : Obligations.ConstellationsAreTheConstructionLoops := by
  intro c m
  refine ⟨constellation_length c.val m, ?_⟩
  split
  next ix isGray h => exact (constellation_of_psk h c.val).trans (tableOf_pskWrites _ _ _)
  next ix b cross h => exact (constellation_of_qam h c.val).trans (tableOf_qamWrites _ _ _ _)

/-! ### The search (R193, R195) -/

theorem dist2_eq_sq (p t : Point) : dist2 p t = (p.I - t.I) ^ 2 + (p.Q - t.Q) ^ 2 := by
  rw [dist2, sq, sq]

/-- The running best after an entry that is not under the threshold: the entry when it is strictly nearer (R195). -/
def nearer (p : Point) : Option (Nat × Int) → Nat × Point → Nat × Int
  | none, e => (e.1, dist2 p e.2)
  | some b, e => if dist2 p e.2 < b.2 then (e.1, dist2 p e.2) else b

section Scan

variable {thr : Int} {p : Point} {best : Option (Nat × Int)} {e : Nat × Point} {es : List (Nat × Point)}

theorem demodScan_of_lt (h : dist2 p e.2 < thr * thr) : demodScan thr p best (e :: es) = e.1 := by
  cases best <;> simp [demodScan, h]

theorem demodScan_of_le (h : thr * thr ≤ dist2 p e.2) :
    demodScan thr p best (e :: es) = demodScan thr p (some (nearer p best e)) es := by
  cases best with
  | none => simp [demodScan, nearer, Int.not_lt.mpr h]
  | some b =>
    by_cases hb : dist2 p e.2 < b.2
    · simp [demodScan, nearer, Int.not_lt.mpr h, hb]
    · simp [demodScan, nearer, Int.not_lt.mpr h, hb]

/-- The first entry under the threshold is taken, whatever the running best. -/
theorem demodScan_of_first_under {c : Nat} (he : es[c]? = some e) (hunder : dist2 p e.2 < thr * thr)
    (hbefore : ∀ j u, j < c → es[j]? = some u → thr * thr ≤ dist2 p u.2) : demodScan thr p best es = e.1 := by
  induction es generalizing best c with
  | nil => cases he
  | cons d es ih =>
    cases c with
    | zero =>
      obtain rfl : d = e := Option.some.inj he
      exact demodScan_of_lt hunder
    | succ c =>
      rw [demodScan_of_le (hbefore 0 d c.succ_pos rfl)]
      exact ih he fun j u hj hu => hbefore (j + 1) u (Nat.succ_lt_succ hj) hu

/-- A running best that no entry betters is the result. -/
theorem demodScan_of_best {b : Nat × Int} (hes : ∀ u ∈ es, thr * thr ≤ dist2 p u.2 ∧ b.2 ≤ dist2 p u.2) :
    demodScan thr p (some b) es = b.1 := by
  induction es with
  | nil => rfl
  | cons d es ih =>
    obtain ⟨⟨hthr, hb⟩, hes⟩ := List.forall_mem_cons.mp hes
    rw [demodScan_of_le hthr, nearer, if_neg (Int.not_lt.mpr hb), ih hes]

/-- With no entry under the threshold, the first of the nearest entries is the result, when it betters the running
best. -/
theorem demodScan_of_first_nearest {c : Nat} (he : es[c]? = some e) (hover : ∀ u ∈ es, thr * thr ≤ dist2 p u.2)
    (hleast : ∀ u ∈ es, dist2 p e.2 ≤ dist2 p u.2)
    (hbefore : ∀ j u, j < c → es[j]? = some u → dist2 p e.2 < dist2 p u.2)
    (hbest : ∀ b ∈ best, dist2 p e.2 < b.2) : demodScan thr p best es = e.1 := by
  induction es generalizing best c with
  | nil => cases he
  | cons d es ih =>
    obtain ⟨hd, hover⟩ := List.forall_mem_cons.mp hover
    obtain ⟨-, hleast⟩ := List.forall_mem_cons.mp hleast
    rw [demodScan_of_le hd]
    cases c with
    | zero =>
      obtain rfl : d = e := Option.some.inj he
      have hnearer : nearer p best d = (d.1, dist2 p d.2) := by
        cases best with
        | none => rfl
        | some b => exact if_pos (hbest b rfl)
      rw [hnearer, demodScan_of_best fun u hu => ⟨hover u hu, hleast u hu⟩]
    | succ c =>
      have hdist : dist2 p e.2 < dist2 p d.2 := hbefore 0 d c.succ_pos rfl
      refine ih he hover hleast (fun j u hj hu => hbefore (j + 1) u (Nat.succ_lt_succ hj) hu) ?_
      rintro _ ⟨⟩
      cases best with
      | none => exact hdist
      | some b =>
        rw [nearer]
        split
        · exact hdist
        · exact hbest b rfl

end Scan

section Demod

variable {thr : Int} {table : List Point} {p t : Point} {c : Nat}

theorem getElem?_zip_range (table : List Point) (j : Nat) :
    ((List.range table.length).zip table)[j]? = table[j]?.map fun t => (j, t) := by
  by_cases hj : j < table.length
  · simp [hj]
  · simp [hj]

theorem demod_of_first_under (ht : table[c]? = some t) (hunder : dist2 p t < thr * thr)
    (hbefore : ∀ j u, j < c → table[j]? = some u → thr * thr ≤ dist2 p u) : demod thr table p = c := by
  refine demodScan_of_first_under (e := (c, t)) (by rw [getElem?_zip_range, ht, Option.map_some]) hunder ?_
  intro j u hj hu
  rw [getElem?_zip_range] at hu
  obtain ⟨v, hv, rfl⟩ := Option.map_eq_some_iff.mp hu
  exact hbefore j v hj hv

theorem demod_of_first_nearest (ht : table[c]? = some t) (hover : ∀ u ∈ table, thr * thr ≤ dist2 p u)
    (hleast : ∀ u ∈ table, dist2 p t ≤ dist2 p u)
    (hbefore : ∀ j u, j < c → table[j]? = some u → dist2 p t < dist2 p u) : demod thr table p = c := by
  refine demodScan_of_first_nearest (e := (c, t)) (by rw [getElem?_zip_range, ht, Option.map_some])
    (fun u hu => hover _ (List.of_mem_zip hu).2) (fun u hu => hleast _ (List.of_mem_zip hu).2) ?_ (by simp)
  intro j u hj hu
  rw [getElem?_zip_range] at hu
  obtain ⟨v, hv, rfl⟩ := Option.map_eq_some_iff.mp hu
  exact hbefore j v hj hv

/-- Two points under the threshold from a third are nearer to each other than twice the threshold. -/
theorem dist2_lt_of_common {u : Point} (ht : dist2 p t < thr * thr) (hu : dist2 p u < thr * thr) :
    dist2 u t < (2 * thr) ^ 2 := by
  unfold dist2 at *
  nlinarith [sq_nonneg (2 * p.I - t.I - u.I), sq_nonneg (2 * p.Q - t.Q - u.Q)]

/-- The early exit does no harm when the discs of the threshold around the points do not meet (R197). -/
theorem demod_of_far_apart (hfar : ∀ u ∈ table, ∀ v ∈ table, u ≠ v → (2 * thr) ^ 2 ≤ dist2 u v)
    (ht : table[c]? = some t) (hleast : ∀ u ∈ table, dist2 p t ≤ dist2 p u)
    (hbefore : ∀ j u, j < c → table[j]? = some u → dist2 p t < dist2 p u) : demod thr table p = c := by
  rcases lt_or_ge (dist2 p t) (thr * thr) with hunder | hover
  · refine demod_of_first_under ht hunder fun j u hj hu => Int.not_lt.mp fun hless => ?_
    have hne : u ≠ t := fun heq => (hbefore j u hj hu).ne (by rw [heq])
    have hapart := hfar u (List.mem_of_getElem? hu) t (List.mem_of_getElem? ht) hne
    exact absurd (dist2_lt_of_common hunder hless) (Int.not_lt.mpr hapart)
  · exact demod_of_first_nearest ht (fun u hu => hover.trans (hleast u hu)) hleast hbefore

theorem dist2_self (p : Point) : dist2 p p = 0 := by simp [dist2]

theorem dist2_nonneg (p t : Point) : 0 ≤ dist2 p t :=
  add_nonneg (mul_self_nonneg _) (mul_self_nonneg _)

theorem point_ext {p t : Point} (hI : p.I = t.I) (hQ : p.Q = t.Q) : p = t := by
  cases p
  cases t
  simp_all

theorem dist2_pos {p t : Point} (h : p ≠ t) : 0 < dist2 p t := by
  refine (dist2_nonneg p t).lt_of_ne fun h0 => h ?_
  obtain ⟨hI, hQ⟩ := mul_self_add_mul_self_eq_zero.mp h0.symm
  exact point_ext (sub_eq_zero.mp hI) (sub_eq_zero.mp hQ)

theorem ne_of_lt_of_nodup {u : Point} {j : Nat} (hnodup : table.Nodup) (hj : j < c) (hu : table[j]? = some u)
    (ht : table[c]? = some t) : t ≠ u := by
  rintro rfl
  obtain ⟨hc, -⟩ := List.getElem?_eq_some_iff.mp ht
  exact hj.ne' ((List.getElem?_inj hc hnodup).mp (ht.trans hu.symm))

/-- A table entry itself is found again, when the entries are distinct and no two nearer than the threshold (R201). -/
theorem demod_of_mem (hnodup : table.Nodup) (hfar : ∀ u ∈ table, ∀ v ∈ table, u ≠ v → thr ^ 2 ≤ dist2 u v)
    (ht : table[c]? = some t) : demod thr table t = c := by
  by_cases hthr : thr = 0
  · subst hthr
    refine demod_of_first_nearest ht (fun u _ => by simpa using dist2_nonneg t u)
      (fun u _ => by rw [dist2_self]; exact dist2_nonneg t u) fun j u hj hu => ?_
    rw [dist2_self]
    exact dist2_pos (ne_of_lt_of_nodup hnodup hj hu ht)
  · refine demod_of_first_under ht (by rw [dist2_self]; exact mul_self_pos.mpr hthr) fun j u hj hu => ?_
    rw [← sq]
    exact hfar t (List.mem_of_getElem? ht) u (List.mem_of_getElem? hu) (ne_of_lt_of_nodup hnodup hj hu ht)

end Demod

/-- Settles O57: the scan stops at the first entry under the threshold; else its running best is replaced by strictly
nearer entries only. -/
theorem demodulationScansInTableOrder : Obligations.DemodulationScansInTableOrder := by
  unfold Obligations.DemodulationScansInTableOrder
  intro d2 thr table p c t ht
  have hd2 : ∀ u v, d2 u v = dist2 u v := fun u v => (dist2_eq_sq u v).symm
  simp only [hd2, sq]
  exact ⟨demod_of_first_under ht, demod_of_first_nearest ht⟩

/-- Settles O58: an entry under the threshold before the nearest one would be nearer to it than the entries are. -/
theorem earlyExitIsExactBelowHalfDistance : Obligations.EarlyExitIsExactBelowHalfDistance := by
  unfold Obligations.EarlyExitIsExactBelowHalfDistance
  intro d2 thr table p c t _ hfar ht hleast hbefore
  have hd2 : ∀ u v, d2 u v = dist2 u v := fun u v => (dist2_eq_sq u v).symm
  simp only [hd2] at hfar hleast hbefore
  exact demod_of_far_apart hfar ht hleast hbefore

end Sys2Proof.Machine
end

section
/-! The modem commands (`42` R194 to R201): the checks in the order of their rules, what they write, and that `MDEM`
undoes `MMOD`. -/

namespace Sys2Proof.Machine

/-! ### The effect of the writes to point registers -/

section PointEffects

variable {i : Instr} {s : State}

theorem completes_of_putPt {k : RegIx} {p : Point} (h : exec i s = .next (s.putPt k.toNat p)) :
    Completes i s s.blk (withPt s k.toNat p) s.acc s.nodata :=
  ⟨_, h, sameControl_putPt _ _ _, fun _ => rfl, pt_putPt s k.isLt p, rfl, rfl⟩

theorem completes_of_putPts {base : Nat} {ts : List Point} {out : Nat} (hfits : base + ts.length ≤ 64)
    (h : exec i s = .next ((s.putPts base ts).arrayDone out)) :
    Completes i s s.blk (withPts s base ts) (BitVec.ofNat 64 out) (out == 0) :=
  ⟨_, h, (sameControl_putPts _ _ _).trans (sameControl_arrayDone _ _), putPts_blk s ts base, pt_putPts ts s base hfits,
    rfl, rfl⟩

theorem holdsPts_of_withPts {t : State} {base : Nat} {ts : List Point}
    (h : ∀ k, t.pt k = withPts s base ts k) : HoldsPts t base ts := by
  intro j hj
  simp [h, withPts, hj]

end PointEffects

/-! ### Reads of a constellation table (R194, R200) -/

section TableReads

variable {s : State}

theorem tablePoint_of_getElem? {m : ModScheme} {cw : Nat} {p : Point} (h : (s.ct.get m.id)[cw]? = some p) :
    s.tablePoint m cw = p := by
  rw [State.tablePoint, List.getD_eq_getElem?_getD, h, Option.getD_some]

/-- A list that agrees with the table at the integer of every block is the list of the points looked up. -/
theorem eq_map_tablePoint {m : ModScheme} {xs : List Bits} {ts : List Point} (hlen : ts.length = xs.length)
    (hentry : ∀ (j : Nat) (u : Bits), xs[j]? = some u → ts[j]? = (s.ct.get m.id)[toInteger u]?) :
    ts = xs.map fun w => s.tablePoint m (toInteger w) := by
  refine List.ext_getElem (by simpa using hlen) fun j hts hxs => ?_
  rw [List.length_map] at hxs
  have hj := hentry j _ (List.getElem?_eq_getElem hxs)
  rw [List.getElem?_eq_getElem hts] at hj
  rw [List.getElem_map, tablePoint_of_getElem? hj.symm]

end TableReads

/-! ### Points and coordinates (R198, R199) -/

/-- The machine's sign extension is that of R11 when the width is not 0. -/
theorem sextCoord_eq_literalSext {W : Nat} (hW : 0 < W) (w : Word) : sextCoord W w = literalSext W w.toNat := by
  obtain ⟨v, rfl⟩ := Nat.exists_eq_add_one_of_ne_zero hW.ne'
  have hdouble : 2 * (w.toNat % 2 ^ (v + 1)) < 2 ^ (v + 1) ↔ w.toNat % 2 ^ (v + 1) < 2 ^ v := by
    rw [Nat.pow_succ]
    omega
  simp [sextCoord, literalSext, BitVec.toInt_eq_toNat_cond, hdouble]

theorem coordW_pos (c : LegalConfig) : 0 < c.val.coordW := by
  obtain ⟨⟨htwo, -⟩, -⟩ := configLegal_iff.mp c.property
  omega

/-- `PSET` has no check of its own: its body only writes. -/
theorem exec_pset (ra : RegIx) (i q : Word) (s : State) :
    exec (.pset ra i q) s = command (.pset ra i q) s (.ok (s.putPt ra.toNat
      { I := sextCoord s.cfg.val.coordW i, Q := sextCoord s.cfg.val.coordW q })) := rfl

/-- Settles O43: no check stands before the write, and a legal width is at least 2. -/
theorem psetWritesAPoint : Obligations.PsetWritesAPoint := by
  intro ra i q s
  refine ⟨encodedAs_word (.pset ra i q), rfl, fun huninit => (exec_pset ra i q s).trans (command_uninit huninit),
    fun hready => ?_⟩
  have hrun : Runs (.pset ra i q) s _ := ⟨hready, exec_pset ra i q s⟩
  rw [← sextCoord_eq_literalSext (coordW_pos s.cfg), ← sextCoord_eq_literalSext (coordW_pos s.cfg)]
  exact completes_of_putPt hrun.next

theorem compField_eq (y : Comp) : compField y = if y = .I then 0 else 1 := by
  cases y <;> rfl

/-- Settles O44: the one check, and then the component that `y` selects goes to `ACC`. -/
theorem pgetReadsACoordinate : Obligations.PgetReadsACoordinate := by
  intro ra y s
  rw [← compField_eq]
  refine ⟨encodedAs_word (.pget ra y), command_uninit, fun hready => ?_⟩
  have hrun : Runs (.pget ra y) s _ := ⟨hready, rfl⟩
  rw [needPt_reg] at hrun
  refine ⟨fun hnone => hrun.raises (present_eq_error_iff.mpr ⟨hnone, rfl⟩), fun p hp => ?_⟩
  have hdone := (hrun.yields (present_eq_ok_iff.mpr hp)).next
  cases y with
  | I => exact completes_of_putAcc hdone
  | Q => exact completes_of_putAcc hdone

/-- Settles O45: the checks in the order of R200; a present entry is the one that the table holds. -/
theorem mtabrdReadsATableEntry : Obligations.MtabrdReadsATableEntry := by
  intro ra sch x s
  refine ⟨encodedAs_word (.mtabrd ra sch x), command_uninit, fun hready => ?_⟩
  have hrun : Runs (.mtabrd ra sch x) s _ := ⟨hready, rfl⟩
  refine ⟨fun hbad => hrun.raises (needMod_of_invalid hbad), fun m hm => ?_⟩
  have hindex := hrun.yields (present_eq_ok_iff.mpr hm)
  refine ⟨fun hpast => hindex.raises (require_eq_error_iff.mpr ⟨decide_eq_false hpast.not_gt, rfl⟩), fun p hx hp => ?_⟩
  rw [← tablePoint_of_getElem? hp]
  exact completes_of_putPt (hindex.passes (require_eq_ok_iff.mpr (decide_eq_true hx))).next

/-! ### Modulation and demodulation (R194, R196) -/

/-- The part that `MMOD` and `MDEM` have in common: NULLREF in UNINIT, the checks of the scheme and of the source array,
and then `hrest` about the scheme. -/
theorem modArray_command {i : Instr} {s : State} {rb : RegIx} {sch : SchemeId} {x : Num12}
    {rest : ModScheme → Checked State} {P : ModScheme → Prop}
    (hexec : exec i s = command i s (needMod sch >>= fun m => needArray rb.toNat x.toNat >>= fun _ => rest m))
    (hrest : ∀ m, Runs i s (rest m) → P m) :
    (s.phase = .uninit → Raises i s .nullref) ∧
    (s.phase = .ready →
      (16 < sch.toNat → Raises i s .badenum) ∧
      (∀ m, ModScheme.ofId sch = some m →
        (64 < rb.toNat + x.toNat → Raises i s .range) ∧ (rb.toNat + x.toNat ≤ 64 → P m))) := by
  refine ⟨fun huninit => hexec.trans (command_uninit huninit), fun hready => ?_⟩
  have hrun : Runs i s _ := ⟨hready, hexec⟩
  refine ⟨fun hbad => hrun.raises (needMod_of_invalid hbad), fun m hm => ?_⟩
  have hsources := hrun.yields (present_eq_ok_iff.mpr hm)
  exact ⟨fun hpast => hsources.raises (needArray_eq_error_iff.mpr ⟨hpast, rfl⟩),
    fun hin => hrest m (hsources.passes (needArray_eq_ok_iff.mpr hin))⟩

/-- Settles O41: the checks in the order of R194; the points looked up are those that the table holds. -/
theorem mmodLooksUpEveryPoint : Obligations.MmodLooksUpEveryPoint := by
  intro ra rb sch x s
  refine ⟨encodedAs_word (.mmod ra rb sch x), modArray_command rfl fun m hread => ?_⟩
  refine ⟨fun hmissing => hread.raises (sourceBlks_eq_error_iff.mpr ⟨rfl, hmissing⟩), fun xs hlen hholds => ?_⟩
  have hsized := hread.yields (sourceBlks_eq_ok_iff.mpr ⟨hlen, hholds⟩)
  refine ⟨fun hwrong => hsized.raises (needSize_eq_error_iff.mpr ⟨⟨_, rfl, hwrong⟩, rfl⟩), fun hsize => ?_⟩
  have hdest := hsized.passes (needSize_eq_ok_iff.mpr (by rintro _ ⟨⟩; exact hsize))
  refine ⟨fun hover => hdest.raises (needArray_eq_error_iff.mpr ⟨hover, rfl⟩), fun ts hfits hts hentry => ?_⟩
  rw [eq_map_tablePoint hts hentry]
  exact completes_of_putPts (by rwa [List.length_map, hlen]) (hdest.passes (needArray_eq_ok_iff.mpr hfits)).next

/-- Settles O42: the checks in the order of R196; spelling a codeword is `from_integer`. -/
theorem mdemSpellsEveryCodeword : Obligations.MdemSpellsEveryCodeword := by
  intro ra rb sch x s
  simp only [← fromInteger_eq_map]
  refine ⟨encodedAs_word (.mdem ra rb sch x), modArray_command rfl fun m hread => ?_⟩
  refine ⟨fun hmissing => hread.raises (sourcePts_eq_error_iff.mpr ⟨rfl, hmissing⟩), fun ts hlen hholds => ?_⟩
  have hdest := hread.yields (sourcePts_eq_ok_iff.mpr ⟨hlen, hholds⟩)
  exact ⟨fun hover => hdest.raises (needArray_eq_error_iff.mpr ⟨hover, rfl⟩),
    fun hfits => completes_of_putBlks (by rwa [List.length_map, hlen])
      (hdest.passes (needArray_eq_ok_iff.mpr hfits)).next⟩

/-! ### Modulating, then demodulating (R201) -/

section RoundTrip

variable {ra rb : RegIx} {sch : SchemeId} {m : ModScheme} {x : Num12} {s : State}

/-- A block of the symbol width names an entry of a table of `2^bits` entries. -/
theorem getElem?_toInteger {u : Bits} (hct : (s.ct.get m.id).length = 2 ^ m.bits) (hu : u.length = m.bits) :
    (s.ct.get m.id)[toInteger u]? = some (s.tablePoint m (toInteger u)) := by
  have hlt : toInteger u < (s.ct.get m.id).length := by
    rw [hct, ← hu]
    exact toInteger_lt u
  rw [State.tablePoint, List.getD_eq_getElem _ _ hlt, List.getElem?_eq_getElem hlt]

theorem mmod_next {xs : List Bits} (hready : s.phase = .ready) (hm : ModScheme.ofId sch = some m)
    (hct : (s.ct.get m.id).length = 2 ^ m.bits) (hsource : rb.toNat + x.toNat ≤ 64) (hdest : ra.toNat + x.toNat ≤ 64)
    (hlen : xs.length = x.toNat) (hholds : HoldsBlks s rb.toNat xs) (hsize : ∀ u ∈ xs, u.length = m.bits) :
    ∃ t, exec (.mmod ra rb sch x) s = .next t ∧ SameControl s t ∧
      HoldsPts t ra.toNat (xs.map fun u => s.tablePoint m (toInteger u)) := by
  obtain ⟨-, -, hcommand⟩ := mmodLooksUpEveryPoint ra rb sch x s
  obtain ⟨-, hscheme⟩ := hcommand hready
  obtain ⟨-, hsources⟩ := hscheme m hm
  obtain ⟨-, hblocks⟩ := hsources hsource
  obtain ⟨-, hsized⟩ := hblocks xs hlen hholds
  obtain ⟨-, hlookup⟩ := hsized hsize
  obtain ⟨t, hnext, heffect⟩ := hlookup (xs.map fun u => s.tablePoint m (toInteger u)) hdest (List.length_map _)
    fun j u hu => by
      rw [List.getElem?_map, hu, Option.map_some, getElem?_toInteger hct (hsize u (List.mem_of_getElem? hu))]
  exact ⟨t, hnext, heffect.control, holdsPts_of_withPts heffect.pts⟩

theorem mdem_next {ts : List Point} (hready : s.phase = .ready) (hm : ModScheme.ofId sch = some m)
    (hsource : rb.toNat + x.toNat ≤ 64) (hdest : ra.toNat + x.toNat ≤ 64) (hlen : ts.length = x.toNat)
    (hholds : HoldsPts s rb.toNat ts) :
    ∃ t, exec (.mdem ra rb sch x) s = .next t ∧
      HoldsBlks t ra.toNat (ts.map fun p => fromInteger m.bits (demod (s.thr.get m.id) (s.ct.get m.id) p)) := by
  obtain ⟨-, -, hcommand⟩ := mdemSpellsEveryCodeword ra rb sch x s
  obtain ⟨-, hscheme⟩ := hcommand hready
  obtain ⟨-, hsources⟩ := hscheme m hm
  obtain ⟨-, hpoints⟩ := hsources hsource
  obtain ⟨-, hcomplete⟩ := hpoints ts hlen hholds
  obtain ⟨t, hnext, heffect⟩ := hcomplete hdest
  simp only [← fromInteger_eq_map] at heffect
  exact ⟨t, hnext, holdsBlks_of_withBlks heffect.blks⟩

end RoundTrip

/-- Settles O59: the entry looked up for a block is found again at its own place, and that place spells the block. -/
theorem modulateThenDemodulateRestoresSymbols : Obligations.ModulateThenDemodulateRestoresSymbols := by
  unfold Obligations.ModulateThenDemodulateRestoresSymbols
  intro d2 pa rb rc sch m x s xs hready hm hct hnodup _ hfar hpa hrb hrc hlen hholds hsize
  have hd2 : ∀ u v, d2 u v = dist2 u v := fun u v => (dist2_eq_sq u v).symm
  simp only [hd2] at hfar
  obtain ⟨t, hmmod, hst, hpoints⟩ := mmod_next hready hm hct hrb hpa hlen hholds hsize
  obtain ⟨u, hmdem, hblocks⟩ := mdem_next (ra := rc) (hst.phase.trans hready) hm hpa hrc
    (by rwa [List.length_map]) hpoints
  have hrestored : ∀ w ∈ xs, fromInteger m.bits
      (demod (s.thr.get m.id) (s.ct.get m.id) (s.tablePoint m (toInteger w))) = w := fun w hw => by
    rw [demod_of_mem hnodup hfar (getElem?_toInteger hct (hsize w hw)), ← hsize w hw, fromInteger_toInteger]
  rw [hst.thr, hst.ct, List.map_map, Function.comp_def, List.map_congr_left hrestored, List.map_id'] at hblocks
  exact ⟨t, u, hmmod, hmdem, hblocks⟩

end Sys2Proof.Machine
end

section
/-! What the statements about fatal errors rest on: every command faults in FATAL, so a command that ends in FATAL
has failed there, and what the read port then shows. -/

namespace Sys2Proof.Machine

variable {i : Instr} {s t : State}

/-- Each command's own frame and that of `INIT` stop at FATAL before any check or write (`60` R227). -/
theorem exec_of_fatal (i : Instr) (h : s.phase = .fatal) : exec i s = .fault .fatalPhase := by
  cases i with
  | init => simp [exec, execInit, h]
  | pset ra a b => exact (exec_pset ra a b s).trans (command_fatal h)
  | _ => exact command_fatal h

/-- Settles O8: `exec` and `step` both look at the phase first, and so does the port. -/
theorem fatalExecutesNothing : Obligations.FatalExecutesNothing := by
  intro s hfatal
  have hport : s.portReady = false := by simp [State.portReady, hfatal]
  exact ⟨fun i => exec_of_fatal i hfatal, fun hreset => step_of_fatal hreset hfatal, hport, rfl, rfl⟩

theorem phase_ne_fatal_of_exec (h : exec i s = .next t) : s.phase ≠ .fatal := by
  intro hfatal
  rw [exec_of_fatal i hfatal] at h
  cases h

/-- No write of a completed command enters FATAL. -/
theorem Wrote.phase_ne_fatal (h : Wrote i s t) (hs : s.phase ≠ .fatal) : t.phase ≠ .fatal := by
  obtain hsame | ⟨-, -, rfl⟩ := h.control
  · rwa [hsame.phase]
  · exact Phase.noConfusion

/-- The phase tells a failed command from a completed one. -/
theorem failed_of_exec (h : exec i s = .next t) (ht : t.phase = .fatal) : Failed i s t := by
  obtain hfailed | hcompleted := exec_next h
  · exact hfailed
  · exact absurd ht (hcompleted.wrote.phase_ne_fatal (phase_ne_fatal_of_exec h))

/-- A failed command leaves the fatal state of its own word, with NULLREF in UNINIT and a listed cause in READY. -/
theorem Failed.exists_cause (h : Failed i s t) :
    ∃ cause, t = fatalState s cause i.word ∧
      ((s.phase = .uninit ∧ i ≠ .init ∧ cause = .nullref) ∨ (s.phase = .ready ∧ cause ∈ causes i)) := by
  obtain ⟨hinit, ⟨huninit, rfl⟩ | ⟨hready, cause, hlisted, rfl⟩⟩ := h
  · exact ⟨.nullref, rfl, .inl ⟨huninit, hinit, rfl⟩⟩
  · exact ⟨cause, rfl, .inr ⟨hready, hlisted⟩⟩

/-- STATUS, FCAUSE and FCMD of the read port after fatal entry (`60` R226). -/
theorem readPort_fatalState (s : State) (cause : FatalCause) (w : Word) :
    ((fatalState s cause w).readPort 0).getLsbD 1 = true ∧
    ((fatalState s cause w).readPort 1).toNat = (causeCode cause).toNat ∧ (fatalState s cause w).readPort 2 = w := by
  obtain ⟨hread, -⟩ := readPortShowsStatusCauseCommandAndAcc
  obtain ⟨-, hstatus, -, -, hcause, hcmd, -⟩ := hread (fatalState s cause w)
  exact ⟨hstatus, hcause, hcmd⟩

/-- Settles O15: a command that ends in FATAL has failed, and a failed command leaves a fatal state. -/
theorem fatalErrorsArePreciseWithListedCauses : Obligations.FatalErrorsArePreciseWithListedCauses := by
  refine ⟨⟨rfl, rfl, rfl, rfl⟩, fun i s t h ht => ?_⟩
  obtain ⟨cause, rfl, hcause⟩ := (failed_of_exec h ht).exists_cause
  exact ⟨cause, rfl, hcause, readPort_fatalState s cause i.word⟩

end Sys2Proof.Machine
end

section
/-! What the statements about the command port and the reset input rest on: when the words presented hold no command
or a part of one, and that a step sees these words only in order, never where the open command ends. -/

namespace Sys2Proof

theorem fetch_eq_idle_iff {ws : List Word} : fetch ws = .idle ↔ ws = [] := by
  cases ws with
  | nil => simp [fetch]
  | cons w ws => simp only [fetch]; split <;> simp

theorem decode_eq_payloadMissing_iff {ws : List Word} :
    decode ws = .error .payloadMissing ↔ fetch ws = .incomplete := by
  unfold decode
  cases fetch ws with
  | idle => simp
  | incomplete => simp
  | command w payload rest => cases hdecode : decodeCommand w payload <;> simp [hdecode]

end Sys2Proof

namespace Sys2Proof.Machine

/-! ### The command port (`70` R251, R258) -/

/-- Whether words have been accepted already or are still presented makes no difference to a step: every case but
reset and waiting with no word looks at the words in order and forgets how they were cut. -/
theorem step_accept_stream {s : State} (hreset : s.resetIn = false) (hwords : s.stream ≠ []) :
    step (s.accept s.stream) = step s := by
  by_cases hphase : s.phase = .fatal
  · rw [step_of_fatal (s := s) hreset hphase]
    exact step_of_fatal (s := s.accept s.stream) hreset hphase
  cases hfetch : fetch s.stream with
  | idle => exact absurd (fetch_eq_idle_iff.mp hfetch) hwords
  | incomplete =>
    rw [step_of_incomplete hreset hphase hfetch]
    exact step_of_incomplete (s := s.accept s.stream) hreset hphase hfetch
  | command w payload rest =>
    cases hdecode : decodeCommand w payload with
    | ok i =>
      rw [step_of_legal hreset hphase hfetch hdecode]
      exact step_of_legal (s := s.accept s.stream) hreset hphase hfetch hdecode
    | error reason =>
      rw [step_of_illegal hreset hphase hfetch hdecode]
      exact step_of_illegal (s := s.accept s.stream) hreset hphase hfetch hdecode

/-- Two cuts of the same words into accepted and presented ones make the same step. -/
theorem step_eq_of_stream_eq {s : State} {a b a' b' : List Word} (hreset : s.resetIn = false) (hwords : a ++ b ≠ [])
    (hsame : a ++ b = a' ++ b') :
    step { s with opened := a, port := b } = step { s with opened := a', port := b' } := by
  calc step { s with opened := a, port := b }
      = step (s.accept (a ++ b)) := (step_accept_stream (s := { s with opened := a, port := b }) hreset hwords).symm
    _ = step (s.accept (a' ++ b')) := by rw [hsame]
    _ = step { s with opened := a', port := b' } :=
      step_accept_stream (s := { s with opened := a', port := b' }) hreset
        (hsame ▸ hwords : a' ++ b' ≠ [])

/-- Settles O7: an incomplete command is not empty, so its words and the later ones may be cut anywhere. -/
theorem partDeliveryWaitsAndLosesNothing : Obligations.PartDeliveryWaitsAndLosesNothing := by
  intro s first later hreset hphase
  refine ⟨fun hempty => ?_, fun hmissing => ⟨?_, ?_⟩⟩
  · exact step_of_idle (s := { s with port := first }) hreset hphase (fetch_eq_idle_iff.mpr hempty)
  · exact step_of_incomplete (s := { s with port := first }) hreset hphase (decode_eq_payloadMissing_iff.mp hmissing)
  · have hwords : s.opened ++ first ≠ [] := by
      intro hempty
      rw [hempty] at hmissing
      cases hmissing
    exact step_eq_of_stream_eq hreset (List.append_ne_nil_of_left_ne_nil hwords later) (List.append_assoc ..)

/-! ### The reset input (`70` R250) -/

/-- Settles O9: the step under reset gives the state after reset, and without it a step from FATAL is a fault. -/
theorem resetInputResetsEverything : Obligations.ResetInputResetsEverything := by
  refine ⟨fun s hreset => ⟨s.takeReset, step_of_reset hreset, rfl, afterReset_blk _ _, afterReset_pt _ _,
    rfl, rfl, rfl, rfl, rfl, rfl, rfl, rfl⟩, fun s t hfatal hreset hnext => ?_⟩
  rw [step_of_fatal hreset hfatal] at hnext
  cases hnext

end Sys2Proof.Machine
end

section
/-! The words that `95` V-EN1 and V-EN2 write out: each is the encoding of its command, so the round trip of
`decodeOfEncodeGivesTheCommand` reads the command back. -/

namespace Sys2Proof.Machine

theorem decode_of_encode_eq {i : Instr} {ws : List Word} (hwf : i.wf = true) (hencode : encode i = ws) :
    decode ws = .ok (i, []) := by
  have hround := decodeOfEncodeGivesTheCommand i [] hwf
  rwa [List.append_nil, hencode] at hround

/-- Settles O3: packing the fields of each command gives the words written out. -/
theorem writtenOutWordsDecode : Obligations.WrittenOutWordsDecode := by
  refine ⟨?init, ?bcreate, ?bcopy, ?bdivmod, ?bmxor, ?fenc, ?mmod, ?pset, ?pget, ?mtabrd⟩
  all_goals exact decode_of_encode_eq rfl rfl

end Sys2Proof.Machine
end
